-- ==== Sys2Proof/Word.lean ====
section
/-! DEFINITION. The machine's bit-vector types (00_scope.md R4, R5; 10_state.md R10). Nothing here computes. -/
namespace Sys2Proof

/-- A register, program counter or address value: `XLEN` = 32 bits (R4). -/
abbrev Word := BitVec 32

/-- A 16-bit parcel of instruction memory, or a halfword of data (R50). -/
abbrev Half := BitVec 16

/-- The unit of memory (R40). -/
abbrev Byte := BitVec 8

/-- The number of a general register, `x0` to `x15` (R10). A 5-bit field of 16 or more names none (R97). -/
abbrev Reg := BitVec 4

/-- A 3-bit compressed register field `r'` (R74). -/
abbrev CReg := BitVec 3

/-- A 2-bit CIM precision code (40_cim_and_multiply.md R120). -/
abbrev Precision := BitVec 2

end Sys2Proof
end

