-- ==== Sys2Proof/Machine/Flags.lean ====
section
/-! DEFINITION. The hardware has no condition flags (10_state.md R23): comparisons deliver their result to a register or to
the branch decision. Here are the comparisons and the shifts of 00_scope.md R6 that every instruction uses. -/
namespace Sys2Proof.Machine

/-- `lt_s(a, b)`: both read as two's complement (R6, R240.2). -/
def ltS (a b : Word) : Bool := decide (a.toInt < b.toInt)

/-- `lt_u(a, b)`: both read as naturals (R6, R240.2). -/
def ltU (a b : Word) : Bool := decide (a.toNat < b.toNat)

/-- `bool32(c)` (R6). -/
def bool32 (c : Bool) : Word := if c then 1 else 0

/-- `sll(v, s)`: zeros enter at bit 0 (R6). -/
def sllW (v : Word) (s : BitVec 5) : Word := v <<< s.toNat

/-- `srl(v, s)`: zeros enter at bit 31 (R6). -/
def srlW (v : Word) (s : BitVec 5) : Word := v >>> s.toNat

/-- `sra(v, s)`: copies of bit 31 enter at bit 31 (R6). -/
def sraW (v : Word) (s : BitVec 5) : Word := v.sshiftRight s.toNat

end Sys2Proof.Machine
end

