-- ==== Sys2Proof/Config.lean ====
section
/-! DEFINITION. What an implementation or a launch fixes (00_scope.md R4) and the free values: constants without a body,
so that no proof can rest on what they are. -/
namespace Sys2Proof

/-- The two values of the OPEN parameter `SLTIU_IMM_EXT` (44_alu.md R232, D26). -/
inductive ImmExt where
  | zero
  | sign
  deriving DecidableEq, Repr, Inhabited

/-- The addresses `base .. base + size - 1`. The OPEN sets `MEM_VALID` and `CODE_REGION` (D3, D5) are lists of spans: every
set of 32-bit addresses is one (log 3). -/
structure Span where
  base : Nat
  size : Nat
  deriving DecidableEq, Repr

/-- Bytes in the 32-bit address space (20_memory.md R40). -/
def Config.addressSpace : Nat := 2 ^ 32

/-- `CIM_N`, the `N` of the two CIM procedures (R4, R122). -/
def Config.cimN : Nat := 4

/-- `RESET_PC` of `State.reset`: the parameter is OPEN and even (R19, D6). DESIGN CHOICE 0 (log 5, unsafe). -/
def Config.resetPc : Word := 0

/-- `MEM_VALID` of `State.reset`: the parameter is OPEN (R47, D3). DESIGN CHOICE the whole space (log 3, unsafe). -/
def Config.resetMemValid : List Span := [⟨0, Config.addressSpace⟩]

/-- `CODE_REGION` of `State.reset`: the parameter is OPEN (R52, D5). DESIGN CHOICE empty (log 3, unsafe). -/
def Config.resetCodeRegion : List Span := []

/-- `SLTIU_IMM_EXT` of `State.reset`: a free constant, the spec does not pick (R232, D26; log 4, safe). -/
opaque Config.sltiuImmExt : ImmExt

/-- The byte a valid address holds after reset where the launch image gives none: unspecified (R19, D7), a free value of
the address (log 8, safe). -/
opaque Config.initialByte : Nat → Byte

/-- The weight that a cell programmed at a precision with an element contributes to its column. The representation of a
weight in a cell, its signedness included, is not given (R26, N26): a free value (log 13, safe). -/
opaque Config.cellWeight : Precision → Byte → Int

/-- The value the SAR ADC delivers for a captured column at a precision. Its transfer function is not given (R128, U7): a
free value (log 13, safe). -/
opaque Config.adc : Precision → Int → Word

end Sys2Proof
end

