-- ==== Sys2Proof/Syntax.lean ====
section
/-! DEFINITION. The instruction set as data: one constructor for each of the 94 rows of spec/opcode_table.json, in the
table's order. An operand is kept as the bits the instruction supplies (30_encoding.md R75 to R87); what value they stand for
is Machine/Operands.lean. The 67 instructions come with 5 hint rows (R94) and 22 illegal or reserved rows (R95, R98 to R101,
R103), so that every row has its own arm and meaning. -/
namespace Sys2Proof

/-- An instruction word as fetched: one 16-bit parcel or two (30_encoding.md R70). -/
inductive InstWord where
  | half (w : BitVec 16)
  | full (w : BitVec 32)
  deriving DecidableEq, Repr

/-- One constructor per row of the opcode table. -/
inductive Instr where
  /-- `0x0000`, the defined illegal instruction (R103, R150). -/
  | cIllegal
  /-- C.ADDI4SPN with `nzuimm = 0` and `rd' ≠ 0`, reserved (R151). -/
  | resCAddi4spn (rd : CReg)
  /-- C.ADDI4SPN; `nzuimm` holds `nzuimm[9:2]` (R75, R152). -/
  | cAddi4spn (rd : CReg) (nzuimm : BitVec 8)
  /-- C.FLD slot, not implemented; `bits` is `inst[12:2]` (R155). -/
  | niCFld (bits : BitVec 11)
  /-- C.LW; `uimm` holds `uimm[6:2]` (R79, R153). -/
  | cLw (rd rs1 : CReg) (uimm : BitVec 5)
  /-- C.FLW slot, not implemented (R155). -/
  | niCFlw (bits : BitVec 11)
  /-- Quadrant 0 slot `100`, reserved for custom (R155). -/
  | resQ0F4 (bits : BitVec 11)
  /-- C.FSD slot, not implemented (R155). -/
  | niCFsd (bits : BitVec 11)
  /-- C.SW; `uimm` holds `uimm[6:2]` (R79, R154). -/
  | cSw (rs2 rs1 : CReg) (uimm : BitVec 5)
  /-- Quadrant 0 slot `111`, not listed by the source (R155). -/
  | unQ0F7 (bits : BitVec 11)
  /-- C.NOP; `nzimm` is ignored (R170). -/
  | cNop (nzimm : BitVec 6)
  /-- C.ADDI (R171). -/
  | cAddi (rd : Reg) (nzimm : BitVec 6)
  /-- C.JAL; `imm` holds `imm[11:1]` (R80, R172). -/
  | cJal (imm : BitVec 11)
  /-- C.LI with `rd = 0`, a hint (R174). -/
  | hintCLi (imm : BitVec 6)
  /-- C.LI (R173). -/
  | cLi (rd : Reg) (imm : BitVec 6)
  /-- C.ADDI16SP with `nzimm = 0`, reserved (R176). -/
  | resCAddi16sp
  /-- C.ADDI16SP; `nzimm` holds `nzimm[9:4]` (R77, R175). -/
  | cAddi16sp (nzimm : BitVec 6)
  /-- C.LUI with `nzimm = 0`, reserved; `rd` is the whole field `inst[11:7]` (R178). -/
  | resCLui (rd : BitVec 5)
  /-- C.LUI with `rd = 0`, a hint; `nzimm` holds `nzimm[17:12]` (R179). -/
  | hintCLui (nzimm : BitVec 6)
  /-- C.LUI; `nzimm` holds `nzimm[17:12]` (R78, R177). -/
  | cLui (rd : Reg) (nzimm : BitVec 6)
  /-- C.SRLI with shift amount 0, reserved (R182). -/
  | resCSrli (rd : CReg)
  /-- C.SRLI (R180). -/
  | cSrli (rd : CReg) (shamt : BitVec 5)
  /-- C.SRLI with `inst[12] = 1`, non-standard (R182). -/
  | nseCSrli (rd : CReg) (shamt : BitVec 5)
  /-- C.SRAI with shift amount 0, reserved (R182). -/
  | resCSrai (rd : CReg)
  /-- C.SRAI (R181). -/
  | cSrai (rd : CReg) (shamt : BitVec 5)
  /-- C.SRAI with `inst[12] = 1`, non-standard (R182). -/
  | nseCSrai (rd : CReg) (shamt : BitVec 5)
  /-- C.ANDI (R183). -/
  | cAndi (rd : CReg) (imm : BitVec 6)
  /-- C.SUB (R184). -/
  | cSub (rd rs2 : CReg)
  /-- C.XOR (R185). -/
  | cXor (rd rs2 : CReg)
  /-- C.OR (R186). -/
  | cOr (rd rs2 : CReg)
  /-- C.AND (R187). -/
  | cAnd (rd rs2 : CReg)
  /-- Quadrant 1 slot `100 1 11`, reserved; `bits` is `inst[9:2]` (R188). -/
  | resQ1 (bits : BitVec 8)
  /-- C.J; `imm` holds `imm[11:1]` (R80, R189). -/
  | cJ (imm : BitVec 11)
  /-- C.BEQZ; `imm` holds `imm[8:1]` (R81, R190). -/
  | cBeqz (rs1 : CReg) (imm : BitVec 8)
  /-- C.BNEZ; `imm` holds `imm[8:1]` (R81, R191). -/
  | cBnez (rs1 : CReg) (imm : BitVec 8)
  /-- C.SLLI with `inst[12] = 1`, non-standard; `bits` is `inst[11:2]` (R202). -/
  | nseCSlli (bits : BitVec 10)
  /-- C.SLLI with shift amount 0, reserved; `rd` is the whole field `inst[11:7]` (R202). -/
  | resCSlli (rd : BitVec 5)
  /-- C.SLLI with `rd = 0`, a hint (R201). -/
  | hintCSlli (shamt : BitVec 5)
  /-- C.SLLI (R200). -/
  | cSlli (rd : Reg) (shamt : BitVec 5)
  /-- C.FLDSP slot, not implemented (R216). -/
  | niCFldsp (bits : BitVec 11)
  /-- C.LWSP with `rd = 0`, reserved; `uimm` holds `uimm[7:2]` (R204). -/
  | resCLwsp (uimm : BitVec 6)
  /-- C.LWSP; `uimm` holds `uimm[7:2]` (R83, R203). -/
  | cLwsp (rd : Reg) (uimm : BitVec 6)
  /-- C.FLWSP slot, not implemented (R216). -/
  | niCFlwsp (bits : BitVec 11)
  /-- C.JR with `rs1 = 0`, reserved (R206). -/
  | resCJr
  /-- C.JR (R205). -/
  | cJr (rs1 : Reg)
  /-- C.MV with `rd = 0`, a hint (R208). -/
  | hintCMv (rs2 : Reg)
  /-- C.MV (R207). -/
  | cMv (rd rs2 : Reg)
  /-- C.EBREAK (R209). -/
  | cEbreak
  /-- C.JALR (R210). -/
  | cJalr (rs1 : Reg)
  /-- C.ADD with `rd = 0`, a hint (R212). -/
  | hintCAdd (rs2 : Reg)
  /-- C.ADD (R211). -/
  | cAdd (rd rs2 : Reg)
  /-- C.FSDSP slot, not implemented (R216). -/
  | niCFsdsp (bits : BitVec 11)
  /-- C.SWSP; `uimm` holds `uimm[7:2]` (R84, R213). -/
  | cSwsp (rs2 : Reg) (uimm : BitVec 6)
  /-- C.FSWSP slot, not implemented (R216). -/
  | niCFswsp (bits : BitVec 11)
  /-- ADD (R220). -/
  | add (rd rs1 rs2 : Reg)
  /-- SUB (R221). -/
  | sub (rd rs1 rs2 : Reg)
  /-- SLT (R222). -/
  | slt (rd rs1 rs2 : Reg)
  /-- SLTU (R223). -/
  | sltu (rd rs1 rs2 : Reg)
  /-- AND (R224). -/
  | and (rd rs1 rs2 : Reg)
  /-- OR (R225). -/
  | or (rd rs1 rs2 : Reg)
  /-- XOR (R226). -/
  | xor (rd rs1 rs2 : Reg)
  /-- SLL (R227). -/
  | sll (rd rs1 rs2 : Reg)
  /-- SRL (R228). -/
  | srl (rd rs1 rs2 : Reg)
  /-- SRA (R229). -/
  | sra (rd rs1 rs2 : Reg)
  /-- ADDI; `imm` holds `imm[11:0]`, as in every I-type instruction (R87, R230). -/
  | addi (rd rs1 : Reg) (imm : BitVec 12)
  /-- SLTI (R231). -/
  | slti (rd rs1 : Reg) (imm : BitVec 12)
  /-- SLTIU (R232). -/
  | sltiu (rd rs1 : Reg) (imm : BitVec 12)
  /-- ANDI (R233). -/
  | andi (rd rs1 : Reg) (imm : BitVec 12)
  /-- ORI (R234). -/
  | ori (rd rs1 : Reg) (imm : BitVec 12)
  /-- XORI (R235). -/
  | xori (rd rs1 : Reg) (imm : BitVec 12)
  /-- SLLI (R236). -/
  | slli (rd rs1 : Reg) (shamt : BitVec 5)
  /-- SRLI (R237). -/
  | srli (rd rs1 : Reg) (shamt : BitVec 5)
  /-- SRAI (R238). -/
  | srai (rd rs1 : Reg) (shamt : BitVec 5)
  /-- LW (R250). -/
  | lw (rd rs1 : Reg) (imm : BitVec 12)
  /-- LH (R251). -/
  | lh (rd rs1 : Reg) (imm : BitVec 12)
  /-- LHU (R252). -/
  | lhu (rd rs1 : Reg) (imm : BitVec 12)
  /-- LB (R253). -/
  | lb (rd rs1 : Reg) (imm : BitVec 12)
  /-- LBU (R254). -/
  | lbu (rd rs1 : Reg) (imm : BitVec 12)
  /-- SW; `imm` holds `imm[11:0]` (R87, R255). -/
  | sw (rs2 rs1 : Reg) (imm : BitVec 12)
  /-- SH (R256). -/
  | sh (rs2 rs1 : Reg) (imm : BitVec 12)
  /-- SB (R257). -/
  | sb (rs2 rs1 : Reg) (imm : BitVec 12)
  /-- LUI; `imm` holds `imm[31:12]` (R270). -/
  | lui (rd : Reg) (imm : BitVec 20)
  /-- AUIPC; `imm` holds `imm[31:12]` (R271). -/
  | auipc (rd : Reg) (imm : BitVec 20)
  /-- JAL; `imm` holds `imm[20:1]` (R280). -/
  | jal (rd : Reg) (imm : BitVec 20)
  /-- JALR (R281). -/
  | jalr (rd rs1 : Reg) (imm : BitVec 12)
  /-- BEQ; `imm` holds `imm[12:1]`, as in every branch (R87, R282). -/
  | beq (rs1 rs2 : Reg) (imm : BitVec 12)
  /-- BNE (R283). -/
  | bne (rs1 rs2 : Reg) (imm : BitVec 12)
  /-- BLT (R284). -/
  | blt (rs1 rs2 : Reg) (imm : BitVec 12)
  /-- BGE (R285). -/
  | bge (rs1 rs2 : Reg) (imm : BitVec 12)
  /-- BLTU (R286). -/
  | bltu (rs1 rs2 : Reg) (imm : BitVec 12)
  /-- BGEU (R287). -/
  | bgeu (rs1 rs2 : Reg) (imm : BitVec 12)
  /-- EBREAK (R300). -/
  | ebreak
  /-- ECALL (R301). -/
  | ecall
  /-- FENCE; the ignored bits `inst[31:15]` and `inst[11:7]` (R302). -/
  | fence (hi : BitVec 17) (lo : BitVec 5)
  deriving DecidableEq, Repr

end Sys2Proof
end

