-- ==== Sys2Proof/Machine/Operands.lean ====
section
/-! DEFINITION. The operand forms: from the bits an instruction supplies to the value they stand for (30_encoding.md R74 to
R87). -/
namespace Sys2Proof.Machine

/-- The register `x[8 + r']` of a 3-bit field (R74). -/
def creg (r : CReg) : Reg := 8#4 + r.zeroExtend 4

/-- `ra` (R11). -/
def ra : Reg := 1

/-- `sp` (R11). -/
def sp : Reg := 2

/-- `sext_32` of an I- or S-type immediate (R87). -/
def immI (imm : BitVec 12) : Word := imm.signExtend 32

/-- A branch offset: 13 bits, bit 0 is 0 (R87). -/
def offB (imm : BitVec 12) : Word := (imm ++ 0#1).signExtend 32

/-- JAL's offset: 21 bits, bit 0 is 0 (R87). -/
def offJ (imm : BitVec 20) : Word := (imm ++ 0#1).signExtend 32

/-- The upper immediate `inst[31:12] ‖ 0^12` (R87). -/
def immU (imm : BitVec 20) : Word := imm ++ 0#12

/-- SLTIU's comparand: zero- or sign-extended by `SLTIU_IMM_EXT` (R232). -/
def immSltiu (ext : ImmExt) (imm : BitVec 12) : Word :=
  match ext with
  | .zero => imm.zeroExtend 32
  | .sign => imm.signExtend 32

/-- `sext_32` of a 6-bit compressed immediate (R76). -/
def immC (imm : BitVec 6) : Word := imm.signExtend 32

/-- C.LUI's value `sext_32(nzimm[17:12] ‖ 0^12)` (R78). -/
def immCLui (nzimm : BitVec 6) : Word := (nzimm ++ 0#12).signExtend 32

/-- C.ADDI16SP's adjustment `sext_32(nzimm[9:4] ‖ 0^4)` (R77). -/
def immCAddi16sp (nzimm : BitVec 6) : Word := (nzimm ++ 0#4).signExtend 32

/-- C.ADDI4SPN's offset `zext_32(nzuimm[9:2] ‖ 0^2)` (R75). -/
def immCAddi4spn (nzuimm : BitVec 8) : Word := (nzuimm ++ 0#2).zeroExtend 32

/-- C.LW's and C.SW's offset `zext_32(uimm[6:2] ‖ 0^2)` (R79). -/
def offCl (uimm : BitVec 5) : Word := (uimm ++ 0#2).zeroExtend 32

/-- C.LWSP's and C.SWSP's offset `zext_32(uimm[7:2] ‖ 0^2)` (R83, R84). -/
def offSp (uimm : BitVec 6) : Word := (uimm ++ 0#2).zeroExtend 32

/-- C.J's and C.JAL's offset `sext_32(imm[11:1] ‖ 0)` (R80). -/
def offCj (imm : BitVec 11) : Word := (imm ++ 0#1).signExtend 32

/-- C.BEQZ's and C.BNEZ's offset `sext_32(imm[8:1] ‖ 0)` (R81). -/
def offCb (imm : BitVec 8) : Word := (imm ++ 0#1).signExtend 32

/-- The shift amount in a register: its low five bits (R240.3). -/
def shiftAmount (v : Word) : BitVec 5 := v.extractLsb' 0 5

/-- A jump target through a register: bit 0 is cleared (R281, R205, R210). -/
def evenTarget (v : Word) : Word := v &&& 0xFFFFFFFE#32

end Sys2Proof.Machine
end

