-- ==== Sys2Proof/WellFormed.lean ====
section
/-! DEFINITION. Which operands an encoding admits: the `nz` and `≠ 0` restrictions of the rows (30_encoding.md R90 to R104).
A term that fails a check stands for no word of its own row: the word it would have belongs to another row. -/
namespace Sys2Proof

/-- `i` is a term that some instruction word decodes to. -/
def Instr.WellFormed : Instr → Bool
  | .resCAddi4spn rd => rd != 0
  | .cAddi4spn _ nzuimm => nzuimm != 0
  | .cAddi rd _ => rd != 0
  | .cLi rd _ => rd != 0
  | .cAddi16sp nzimm => nzimm != 0
  | .resCLui rd => rd != 2
  | .hintCLui nzimm => nzimm != 0
  | .cLui rd nzimm => rd != 0 && rd != 2 && nzimm != 0
  | .cSrli _ shamt => shamt != 0
  | .cSrai _ shamt => shamt != 0
  | .hintCSlli shamt => shamt != 0
  | .cSlli rd shamt => rd != 0 && shamt != 0
  | .cLwsp rd _ => rd != 0
  | .cJr rs1 => rs1 != 0
  | .hintCMv rs2 => rs2 != 0
  | .cMv rd rs2 => rd != 0 && rs2 != 0
  | .cJalr rs1 => rs1 != 0
  | .hintCAdd rs2 => rs2 != 0
  | .cAdd rd rs2 => rd != 0 && rs2 != 0
  | .cIllegal | .niCFld _ | .cLw _ _ _ | .niCFlw _ | .resQ0F4 _ | .niCFsd _ | .cSw _ _ _ | .unQ0F7 _ => true
  | .cNop _ | .cJal _ | .hintCLi _ | .resCAddi16sp | .resCSrli _ | .nseCSrli _ _ | .resCSrai _ | .nseCSrai _ _ => true
  | .cAndi _ _ | .cSub _ _ | .cXor _ _ | .cOr _ _ | .cAnd _ _ | .resQ1 _ | .cJ _ | .cBeqz _ _ | .cBnez _ _ => true
  | .nseCSlli _ | .resCSlli _ | .niCFldsp _ | .resCLwsp _ | .niCFlwsp _ | .resCJr | .cEbreak | .niCFsdsp _ => true
  | .cSwsp _ _ | .niCFswsp _ => true
  | .add _ _ _ | .sub _ _ _ | .slt _ _ _ | .sltu _ _ _ | .and _ _ _ | .or _ _ _ | .xor _ _ _ => true
  | .sll _ _ _ | .srl _ _ _ | .sra _ _ _ => true
  | .addi _ _ _ | .slti _ _ _ | .sltiu _ _ _ | .andi _ _ _ | .ori _ _ _ | .xori _ _ _ => true
  | .slli _ _ _ | .srli _ _ _ | .srai _ _ _ => true
  | .lw _ _ _ | .lh _ _ _ | .lhu _ _ _ | .lb _ _ _ | .lbu _ _ _ | .sw _ _ _ | .sh _ _ _ | .sb _ _ _ => true
  | .lui _ _ | .auipc _ _ | .jal _ _ | .jalr _ _ _ => true
  | .beq _ _ _ | .bne _ _ _ | .blt _ _ _ | .bge _ _ _ | .bltu _ _ _ | .bgeu _ _ _ => true
  | .ebreak | .ecall | .fence _ _ => true

end Sys2Proof
end

