-- ==== Sys2Proof/Decode.lean ====
section
/-! DEFINITION. The decoder, total on every word, and the encoder, both written from the encoding rules of
30_encoding.md (R70 to R104) and the encoding lines of the family files. A word the decoder rejects is one that rule R96
gives to `IllegalInstruction`. -/
namespace Sys2Proof

/-- Why a word stands for no row of the opcode table, or why bytes hold no word. -/
inductive Reject where
  /-- A 5-bit register field of 16 or more (R97). -/
  | registerField
  /-- A funct3 or funct7 the listed opcode does not give to an instruction (R89, R102, R241). -/
  | functionCode
  /-- A SYSTEM word other than ECALL and EBREAK, or a MISC-MEM word with funct3 ≠ 000 (R303). -/
  | systemWord
  /-- A major opcode the source does not list (R96, R101). -/
  | unlistedOpcode
  /-- A 16-bit parcel whose low two bits say 32 bits, or the other way round: not a word of that length (R70). -/
  | wrongLength
  /-- Too few bytes for an instruction. -/
  | truncated
  deriving DecidableEq, Repr

abbrev Decoded := Except Reject Instr

/-- The register named by the 5-bit field at bit `lo`: the field's top bit must be 0 (R74, R97). -/
def regField {n : Nat} (w : BitVec n) (lo : Nat) : Except Reject Reg :=
  if w.getLsbD (lo + 4) then .error .registerField else .ok (w.extractLsb' lo 4)

/-- A register number as a 5-bit field: its top bit is 0 (R97). -/
def reg5 (r : Reg) : BitVec 5 := 0#1 ++ r

/-! ### Immediates, from instruction bits (R75 to R87) -/

/-- `nzuimm[9:2]` of C.ADDI4SPN (R75). -/
def immCiw (w : BitVec 16) : BitVec 8 := w.extractLsb' 7 4 ++ w.extractLsb' 11 2 ++ w.extractLsb' 5 1 ++ w.extractLsb' 6 1

/-- `uimm[6:2]` of C.LW and C.SW (R79). -/
def immCl (w : BitVec 16) : BitVec 5 := w.extractLsb' 5 1 ++ w.extractLsb' 10 3 ++ w.extractLsb' 6 1

/-- The 6-bit immediate `inst[12] ‖ inst[6:2]` of C.NOP, C.ADDI, C.LI, C.ANDI and C.LUI (R76, R78). -/
def immCi (w : BitVec 16) : BitVec 6 := w.extractLsb' 12 1 ++ w.extractLsb' 2 5

/-- `nzimm[9:4]` of C.ADDI16SP (R77). -/
def immCi16 (w : BitVec 16) : BitVec 6 :=
  w.extractLsb' 12 1 ++ w.extractLsb' 3 2 ++ w.extractLsb' 5 1 ++ w.extractLsb' 2 1 ++ w.extractLsb' 6 1

/-- `imm[11:1]` of C.J and C.JAL (R80). -/
def immCj (w : BitVec 16) : BitVec 11 :=
  w.extractLsb' 12 1 ++ w.extractLsb' 8 1 ++ w.extractLsb' 9 2 ++ w.extractLsb' 6 1 ++ w.extractLsb' 7 1 ++
    w.extractLsb' 2 1 ++ w.extractLsb' 11 1 ++ w.extractLsb' 3 3

/-- `imm[8:1]` of C.BEQZ and C.BNEZ (R81). -/
def immCb (w : BitVec 16) : BitVec 8 :=
  w.extractLsb' 12 1 ++ w.extractLsb' 5 2 ++ w.extractLsb' 2 1 ++ w.extractLsb' 10 2 ++ w.extractLsb' 3 2

/-- `uimm[7:2]` of C.LWSP (R83). -/
def immClwsp (w : BitVec 16) : BitVec 6 := w.extractLsb' 2 2 ++ w.extractLsb' 12 1 ++ w.extractLsb' 4 3

/-- `uimm[7:2]` of C.SWSP (R84). -/
def immCswsp (w : BitVec 16) : BitVec 6 := w.extractLsb' 7 2 ++ w.extractLsb' 9 4

/-- `imm[11:0]` of an S-type word (R87). -/
def immS (w : BitVec 32) : BitVec 12 := w.extractLsb' 25 7 ++ w.extractLsb' 7 5

/-- `imm[12:1]` of a B-type word (R87). -/
def immB (w : BitVec 32) : BitVec 12 :=
  w.extractLsb' 31 1 ++ w.extractLsb' 7 1 ++ w.extractLsb' 25 6 ++ w.extractLsb' 8 4

/-- `imm[20:1]` of a J-type word (R87). -/
def immJ (w : BitVec 32) : BitVec 20 :=
  w.extractLsb' 31 1 ++ w.extractLsb' 12 8 ++ w.extractLsb' 20 1 ++ w.extractLsb' 21 10

/-! ### Decoding compressed words (R90 to R92, R104) -/

/-- Quadrant 0 (R90). -/
def decodeQ0 (w : BitVec 16) : Decoded :=
  let f3 := w.extractLsb' 13 3
  let lo := w.extractLsb' 2 3
  let mid := w.extractLsb' 7 3
  let slot := w.extractLsb' 2 11
  if f3 = 0b000#3 then
    if immCiw w = 0 then (if lo = 0 then .ok .cIllegal else .ok (.resCAddi4spn lo))
    else .ok (.cAddi4spn lo (immCiw w))
  else if f3 = 0b001#3 then .ok (.niCFld slot)
  else if f3 = 0b010#3 then .ok (.cLw lo mid (immCl w))
  else if f3 = 0b011#3 then .ok (.niCFlw slot)
  else if f3 = 0b100#3 then .ok (.resQ0F4 slot)
  else if f3 = 0b101#3 then .ok (.niCFsd slot)
  else if f3 = 0b110#3 then .ok (.cSw lo mid (immCl w))
  else .ok (.unQ0F7 slot)

/-- Quadrant 1, group `100` (R91, R182, R188). -/
def decodeQ1Alu (w : BitVec 16) : Decoded :=
  let sel := w.extractLsb' 10 2
  let rd := w.extractLsb' 7 3
  let op := w.extractLsb' 5 2
  let rs2 := w.extractLsb' 2 3
  let shamt := w.extractLsb' 2 5
  let top := w.getLsbD 12
  if sel = 0b00#2 then
    if top then .ok (.nseCSrli rd shamt) else if shamt = 0 then .ok (.resCSrli rd) else .ok (.cSrli rd shamt)
  else if sel = 0b01#2 then
    if top then .ok (.nseCSrai rd shamt) else if shamt = 0 then .ok (.resCSrai rd) else .ok (.cSrai rd shamt)
  else if sel = 0b10#2 then .ok (.cAndi rd (immCi w))
  else if top then .ok (.resQ1 (w.extractLsb' 2 8))
  else if op = 0b00#2 then .ok (.cSub rd rs2)
  else if op = 0b01#2 then .ok (.cXor rd rs2)
  else if op = 0b10#2 then .ok (.cOr rd rs2)
  else .ok (.cAnd rd rs2)

/-- Quadrant 1 (R91). In group `011` the reserved case `nzimm = 0` comes before the hint (R104). -/
def decodeQ1 (w : BitVec 16) : Decoded :=
  let f3 := w.extractLsb' 13 3
  let rd5 := w.extractLsb' 7 5
  if f3 = 0b000#3 then do
    let rd ← regField w 7
    if rd = 0 then .ok (.cNop (immCi w)) else .ok (.cAddi rd (immCi w))
  else if f3 = 0b001#3 then .ok (.cJal (immCj w))
  else if f3 = 0b010#3 then do
    let rd ← regField w 7
    if rd = 0 then .ok (.hintCLi (immCi w)) else .ok (.cLi rd (immCi w))
  else if f3 = 0b011#3 then
    if rd5 = 2 then (if immCi16 w = 0 then .ok .resCAddi16sp else .ok (.cAddi16sp (immCi16 w)))
    else if immCi w = 0 then .ok (.resCLui rd5)
    else do
      let rd ← regField w 7
      if rd = 0 then .ok (.hintCLui (immCi w)) else .ok (.cLui rd (immCi w))
  else if f3 = 0b100#3 then decodeQ1Alu w
  else if f3 = 0b101#3 then .ok (.cJ (immCj w))
  else if f3 = 0b110#3 then .ok (.cBeqz (w.extractLsb' 7 3) (immCb w))
  else .ok (.cBnez (w.extractLsb' 7 3) (immCb w))

/-- Quadrant 2, group `100` (R92). -/
def decodeQ2Reg (w : BitVec 16) : Decoded := do
  let a ← regField w 7
  let b ← regField w 2
  if w.getLsbD 12 then
    if b = 0 then (if a = 0 then .ok .cEbreak else .ok (.cJalr a))
    else if a = 0 then .ok (.hintCAdd b) else .ok (.cAdd a b)
  else
    if b = 0 then (if a = 0 then .ok .resCJr else .ok (.cJr a))
    else if a = 0 then .ok (.hintCMv b) else .ok (.cMv a b)

/-- Quadrant 2 (R92). In C.SLLI the non-standard and zero-shift cases come before the hint (R104). -/
def decodeQ2 (w : BitVec 16) : Decoded :=
  let f3 := w.extractLsb' 13 3
  let slot := w.extractLsb' 2 11
  if f3 = 0b000#3 then
    if w.getLsbD 12 then .ok (.nseCSlli (w.extractLsb' 2 10))
    else if w.extractLsb' 2 5 = 0 then .ok (.resCSlli (w.extractLsb' 7 5))
    else do
      let rd ← regField w 7
      if rd = 0 then .ok (.hintCSlli (w.extractLsb' 2 5)) else .ok (.cSlli rd (w.extractLsb' 2 5))
  else if f3 = 0b001#3 then .ok (.niCFldsp slot)
  else if f3 = 0b010#3 then do
    let rd ← regField w 7
    if rd = 0 then .ok (.resCLwsp (immClwsp w)) else .ok (.cLwsp rd (immClwsp w))
  else if f3 = 0b011#3 then .ok (.niCFlwsp slot)
  else if f3 = 0b100#3 then decodeQ2Reg w
  else if f3 = 0b101#3 then .ok (.niCFsdsp slot)
  else if f3 = 0b110#3 then do
    let rs2 ← regField w 2
    .ok (.cSwsp rs2 (immCswsp w))
  else .ok (.niCFswsp slot)

/-- A compressed word, by its quadrant `inst[1:0]` (R71). -/
def decode16 (w : BitVec 16) : Decoded :=
  let q := w.extractLsb' 0 2
  if q = 0b00#2 then decodeQ0 w
  else if q = 0b01#2 then decodeQ1 w
  else if q = 0b10#2 then decodeQ2 w
  else .error .wrongLength

/-! ### Decoding 32-bit words (R89, R102) -/

/-- Opcode `0110011`: the whole of funct7 selects (R102). -/
def decodeOp (w : BitVec 32) : Decoded := do
  let f3 := w.extractLsb' 12 3
  let f7 := w.extractLsb' 25 7
  let rd ← regField w 7
  let rs1 ← regField w 15
  let rs2 ← regField w 20
  if f7 = 0b0000000#7 then
    if f3 = 0b000#3 then .ok (.add rd rs1 rs2)
    else if f3 = 0b001#3 then .ok (.sll rd rs1 rs2)
    else if f3 = 0b010#3 then .ok (.slt rd rs1 rs2)
    else if f3 = 0b011#3 then .ok (.sltu rd rs1 rs2)
    else if f3 = 0b100#3 then .ok (.xor rd rs1 rs2)
    else if f3 = 0b101#3 then .ok (.srl rd rs1 rs2)
    else if f3 = 0b110#3 then .ok (.or rd rs1 rs2)
    else .ok (.and rd rs1 rs2)
  else if f7 = 0b0100000#7 then
    if f3 = 0b000#3 then .ok (.sub rd rs1 rs2)
    else if f3 = 0b101#3 then .ok (.sra rd rs1 rs2)
    else .error .functionCode
  else .error .functionCode

/-- Opcode `0010011`; the shifts also need `inst[31:25]` (R89, R102). -/
def decodeOpImm (w : BitVec 32) : Decoded := do
  let f3 := w.extractLsb' 12 3
  let f7 := w.extractLsb' 25 7
  let imm := w.extractLsb' 20 12
  let shamt := w.extractLsb' 20 5
  let rd ← regField w 7
  let rs1 ← regField w 15
  if f3 = 0b000#3 then .ok (.addi rd rs1 imm)
  else if f3 = 0b001#3 then (if f7 = 0b0000000#7 then .ok (.slli rd rs1 shamt) else .error .functionCode)
  else if f3 = 0b010#3 then .ok (.slti rd rs1 imm)
  else if f3 = 0b011#3 then .ok (.sltiu rd rs1 imm)
  else if f3 = 0b100#3 then .ok (.xori rd rs1 imm)
  else if f3 = 0b101#3 then
    if f7 = 0b0000000#7 then .ok (.srli rd rs1 shamt)
    else if f7 = 0b0100000#7 then .ok (.srai rd rs1 shamt)
    else .error .functionCode
  else if f3 = 0b110#3 then .ok (.ori rd rs1 imm)
  else .ok (.andi rd rs1 imm)

/-- Opcode `0000011` (R89, R259). -/
def decodeLoad (w : BitVec 32) : Decoded := do
  let f3 := w.extractLsb' 12 3
  let imm := w.extractLsb' 20 12
  let rd ← regField w 7
  let rs1 ← regField w 15
  if f3 = 0b000#3 then .ok (.lb rd rs1 imm)
  else if f3 = 0b001#3 then .ok (.lh rd rs1 imm)
  else if f3 = 0b010#3 then .ok (.lw rd rs1 imm)
  else if f3 = 0b100#3 then .ok (.lbu rd rs1 imm)
  else if f3 = 0b101#3 then .ok (.lhu rd rs1 imm)
  else .error .functionCode

/-- Opcode `0100011` (R89, R260). -/
def decodeStore (w : BitVec 32) : Decoded := do
  let f3 := w.extractLsb' 12 3
  let rs1 ← regField w 15
  let rs2 ← regField w 20
  if f3 = 0b000#3 then .ok (.sb rs2 rs1 (immS w))
  else if f3 = 0b001#3 then .ok (.sh rs2 rs1 (immS w))
  else if f3 = 0b010#3 then .ok (.sw rs2 rs1 (immS w))
  else .error .functionCode

/-- Opcode `1100011` (R89). -/
def decodeBranch (w : BitVec 32) : Decoded := do
  let f3 := w.extractLsb' 12 3
  let rs1 ← regField w 15
  let rs2 ← regField w 20
  if f3 = 0b000#3 then .ok (.beq rs1 rs2 (immB w))
  else if f3 = 0b001#3 then .ok (.bne rs1 rs2 (immB w))
  else if f3 = 0b100#3 then .ok (.blt rs1 rs2 (immB w))
  else if f3 = 0b101#3 then .ok (.bge rs1 rs2 (immB w))
  else if f3 = 0b110#3 then .ok (.bltu rs1 rs2 (immB w))
  else if f3 = 0b111#3 then .ok (.bgeu rs1 rs2 (immB w))
  else .error .functionCode

/-- Opcode `1100111`: funct3 must be `000` (R102). -/
def decodeJalr (w : BitVec 32) : Decoded := do
  let rd ← regField w 7
  let rs1 ← regField w 15
  if w.extractLsb' 12 3 = 0b000#3 then .ok (.jalr rd rs1 (w.extractLsb' 20 12)) else .error .functionCode

/-- A 32-bit word, by its opcode `inst[6:0]` (R89). -/
def decode32 (w : BitVec 32) : Decoded :=
  let op := w.extractLsb' 0 7
  if op = 0b0110011#7 then decodeOp w
  else if op = 0b0010011#7 then decodeOpImm w
  else if op = 0b0000011#7 then decodeLoad w
  else if op = 0b0100011#7 then decodeStore w
  else if op = 0b0110111#7 then do
    let rd ← regField w 7
    .ok (.lui rd (w.extractLsb' 12 20))
  else if op = 0b0010111#7 then do
    let rd ← regField w 7
    .ok (.auipc rd (w.extractLsb' 12 20))
  else if op = 0b1101111#7 then do
    let rd ← regField w 7
    .ok (.jal rd (immJ w))
  else if op = 0b1100111#7 then decodeJalr w
  else if op = 0b1100011#7 then decodeBranch w
  else if op = 0b1110011#7 then
    if w = 0x00100073#32 then .ok .ebreak
    else if w = 0x00000073#32 then .ok .ecall
    else .error .systemWord
  else if op = 0b0001111#7 then
    if w.extractLsb' 12 3 = 0b000#3 then .ok (.fence (w.extractLsb' 15 17) (w.extractLsb' 7 5))
    else .error .systemWord
  else if w.extractLsb' 0 2 = 0b11#2 then .error .unlistedOpcode
  else .error .wrongLength

/-- The instruction a fetched word stands for (R71). -/
def decode : InstWord → Decoded
  | .half w => decode16 w
  | .full w => decode32 w

/-! ### Bytes (R42, R50) -/

/-- The first instruction word in a list of bytes, lowest address first, with the bytes after it: little-endian parcels, a
second one only where the first says 32 bits (R50). -/
def wordOfBytes : List Byte → Except Reject (InstWord × List Byte)
  | b0 :: b1 :: rest =>
    let p0 : BitVec 16 := b1 ++ b0
    if p0.extractLsb' 0 2 = 0b11#2 then
      match rest with
      | b2 :: b3 :: rest' => .ok (.full (b3 ++ b2 ++ p0), rest')
      | _ => .error .truncated
    else .ok (.half p0, rest)
  | _ => .error .truncated

/-- The first instruction in a list of bytes, with the bytes after it. -/
def decodeBytes (bs : List Byte) : Except Reject (Instr × List Byte) := do
  let (w, rest) ← wordOfBytes bs
  let i ← decode w
  .ok (i, rest)

/-- The four bytes that hold an instruction given as a number of `nbits` bits, the bits above them 0: the lowest byte first
(R42). -/
def tableBytes (nbits w : Nat) : List Byte :=
  let v := BitVec.ofNat 32 (w % 2 ^ nbits)
  [v.extractLsb' 0 8, v.extractLsb' 8 8, v.extractLsb' 16 8, v.extractLsb' 24 8]

/-- The instruction the decoder reads from an instruction whose bits are `w`, numbered as spec/opcode_table.json numbers
them. -/
def decodeTableWord (nbits w : Nat) : Option Instr :=
  match decodeBytes (tableBytes nbits w) with
  | .ok (i, _) => some i
  | .error _ => none

/-! ### The encoder -/

/-- C.ADDI4SPN's `inst[12:5]` from `nzuimm[9:2]` (R75). -/
def fieldCiw (k : BitVec 8) : BitVec 8 := k.extractLsb' 2 2 ++ k.extractLsb' 4 4 ++ k.extractLsb' 0 1 ++ k.extractLsb' 1 1

/-- C.ADDI16SP's `inst[6:2]` from `nzimm[9:4]` (R77). -/
def fieldCi16 (k : BitVec 6) : BitVec 5 := k.extractLsb' 0 1 ++ k.extractLsb' 2 1 ++ k.extractLsb' 3 2 ++ k.extractLsb' 1 1

/-- The CJ format's `inst[12:2]` from `imm[11:1]` (R80). -/
def fieldCj (k : BitVec 11) : BitVec 11 :=
  k.extractLsb' 10 1 ++ k.extractLsb' 3 1 ++ k.extractLsb' 7 2 ++ k.extractLsb' 9 1 ++ k.extractLsb' 5 1 ++
    k.extractLsb' 6 1 ++ k.extractLsb' 0 3 ++ k.extractLsb' 4 1

/-- A branch's `inst[12:10]` from `imm[8:1]` (R81). -/
def fieldCbHi (k : BitVec 8) : BitVec 3 := k.extractLsb' 7 1 ++ k.extractLsb' 2 2

/-- A branch's `inst[6:2]` from `imm[8:1]` (R81). -/
def fieldCbLo (k : BitVec 8) : BitVec 5 := k.extractLsb' 5 2 ++ k.extractLsb' 0 2 ++ k.extractLsb' 4 1

/-- The J format's `inst[31:12]` from `imm[20:1]` (R86). -/
def fieldJ (k : BitVec 20) : BitVec 20 :=
  k.extractLsb' 19 1 ++ k.extractLsb' 0 10 ++ k.extractLsb' 10 1 ++ k.extractLsb' 11 8

/-- A 16-bit word with eleven free bits between `inst[15:13]` and `inst[1:0]` (formats CJ and the unused slots). -/
def encSlot (f3 : BitVec 3) (bits : BitVec 11) (q : BitVec 2) : BitVec 16 := f3 ++ bits ++ q

/-- Formats CL and CS (R72, R79). -/
def encCl (f3 : BitVec 3) (u : BitVec 5) (rs1 r : CReg) : BitVec 16 :=
  f3 ++ u.extractLsb' 1 3 ++ rs1 ++ u.extractLsb' 0 1 ++ u.extractLsb' 4 1 ++ r ++ 0b00#2

/-- Format CI: `inst[15:13]`, `inst[12]`, `inst[11:7]`, `inst[6:2]`, `inst[1:0]` (R72). Format CR is the same cut. -/
def encCi (f3 : BitVec 3) (b12 : BitVec 1) (mid lo : BitVec 5) (q : BitVec 2) : BitVec 16 := f3 ++ b12 ++ mid ++ lo ++ q

/-- Format CIW: eight bits, `rd'` (R72). -/
def encCiw (bits : BitVec 8) (rd : CReg) : BitVec 16 := 0b000#3 ++ bits ++ rd ++ 0b00#2

/-- Format CA: group `100`, `inst[12] = 0`, `inst[11:10] = 11` (R72). -/
def encCa (sel : BitVec 2) (rd rs2 : CReg) : BitVec 16 := 0b100011#6 ++ rd ++ sel ++ rs2 ++ 0b01#2

/-- Format CB of the branches (R72, R81). -/
def encCbr (f3 : BitVec 3) (k : BitVec 8) (rs1 : CReg) : BitVec 16 := f3 ++ fieldCbHi k ++ rs1 ++ fieldCbLo k ++ 0b01#2

/-- Format CSS: six bits, `rs2` (R72, R84). -/
def encCss (uimm : BitVec 6) (rs2 : Reg) : BitVec 16 :=
  0b110#3 ++ uimm.extractLsb' 0 4 ++ uimm.extractLsb' 4 2 ++ reg5 rs2 ++ 0b10#2

/-- Format CB (shifts, C.ANDI) of group `100`: `inst[12]`, `inst[11:10]`, `inst[9:7]`, `inst[6:2]` (R72). -/
def encCb (b12 : BitVec 1) (sel : BitVec 2) (rd : CReg) (lo : BitVec 5) : BitVec 16 :=
  0b100#3 ++ b12 ++ sel ++ rd ++ lo ++ 0b01#2

/-- Format R (R86). -/
def encR (f7 : BitVec 7) (rs2 rs1 : Reg) (f3 : BitVec 3) (rd : Reg) (op : BitVec 7) : BitVec 32 :=
  f7 ++ reg5 rs2 ++ reg5 rs1 ++ f3 ++ reg5 rd ++ op

/-- Format I (R86). -/
def encI (imm : BitVec 12) (rs1 : Reg) (f3 : BitVec 3) (rd : Reg) (op : BitVec 7) : BitVec 32 :=
  imm ++ reg5 rs1 ++ f3 ++ reg5 rd ++ op

/-- Format I of the shifts: `inst[31:25]` is a function code (R87). -/
def encSh (f7 : BitVec 7) (shamt : BitVec 5) (rs1 : Reg) (f3 : BitVec 3) (rd : Reg) (op : BitVec 7) : BitVec 32 :=
  f7 ++ shamt ++ reg5 rs1 ++ f3 ++ reg5 rd ++ op

/-- Format S (R86). -/
def encS (imm : BitVec 12) (rs2 rs1 : Reg) (f3 : BitVec 3) (op : BitVec 7) : BitVec 32 :=
  imm.extractLsb' 5 7 ++ reg5 rs2 ++ reg5 rs1 ++ f3 ++ imm.extractLsb' 0 5 ++ op

/-- Format B (R86). -/
def encB (imm : BitVec 12) (rs2 rs1 : Reg) (f3 : BitVec 3) (op : BitVec 7) : BitVec 32 :=
  imm.extractLsb' 11 1 ++ imm.extractLsb' 4 6 ++ reg5 rs2 ++ reg5 rs1 ++ f3 ++ imm.extractLsb' 0 4 ++
    imm.extractLsb' 10 1 ++ op

/-- Formats U and J: twenty bits, rd, opcode (R86). -/
def encU (imm : BitVec 20) (rd : Reg) (op : BitVec 7) : BitVec 32 := imm ++ reg5 rd ++ op

/-- The word of an instruction, from the encoding line of its rule. -/
def encode : Instr → InstWord
  | .cIllegal => .half 0x0000#16
  | .resCAddi4spn rd => .half (encCiw 0#8 rd)
  | .cAddi4spn rd nzuimm => .half (encCiw (fieldCiw nzuimm) rd)
  | .niCFld bits => .half (encSlot 0b001#3 bits 0b00#2)
  | .cLw rd rs1 uimm => .half (encCl 0b010#3 uimm rs1 rd)
  | .niCFlw bits => .half (encSlot 0b011#3 bits 0b00#2)
  | .resQ0F4 bits => .half (encSlot 0b100#3 bits 0b00#2)
  | .niCFsd bits => .half (encSlot 0b101#3 bits 0b00#2)
  | .cSw rs2 rs1 uimm => .half (encCl 0b110#3 uimm rs1 rs2)
  | .unQ0F7 bits => .half (encSlot 0b111#3 bits 0b00#2)
  | .cNop nzimm => .half (encCi 0b000#3 (nzimm.extractLsb' 5 1) 0#5 (nzimm.extractLsb' 0 5) 0b01#2)
  | .cAddi rd nzimm => .half (encCi 0b000#3 (nzimm.extractLsb' 5 1) (reg5 rd) (nzimm.extractLsb' 0 5) 0b01#2)
  | .cJal imm => .half (encSlot 0b001#3 (fieldCj imm) 0b01#2)
  | .hintCLi imm => .half (encCi 0b010#3 (imm.extractLsb' 5 1) 0#5 (imm.extractLsb' 0 5) 0b01#2)
  | .cLi rd imm => .half (encCi 0b010#3 (imm.extractLsb' 5 1) (reg5 rd) (imm.extractLsb' 0 5) 0b01#2)
  | .resCAddi16sp => .half 0x6101#16
  | .cAddi16sp nzimm => .half (encCi 0b011#3 (nzimm.extractLsb' 5 1) 0b00010#5 (fieldCi16 nzimm) 0b01#2)
  | .resCLui rd => .half (encCi 0b011#3 0#1 rd 0#5 0b01#2)
  | .hintCLui nzimm => .half (encCi 0b011#3 (nzimm.extractLsb' 5 1) 0#5 (nzimm.extractLsb' 0 5) 0b01#2)
  | .cLui rd nzimm => .half (encCi 0b011#3 (nzimm.extractLsb' 5 1) (reg5 rd) (nzimm.extractLsb' 0 5) 0b01#2)
  | .resCSrli rd => .half (encCb 0#1 0b00#2 rd 0#5)
  | .cSrli rd shamt => .half (encCb 0#1 0b00#2 rd shamt)
  | .nseCSrli rd shamt => .half (encCb 1#1 0b00#2 rd shamt)
  | .resCSrai rd => .half (encCb 0#1 0b01#2 rd 0#5)
  | .cSrai rd shamt => .half (encCb 0#1 0b01#2 rd shamt)
  | .nseCSrai rd shamt => .half (encCb 1#1 0b01#2 rd shamt)
  | .cAndi rd imm => .half (encCb (imm.extractLsb' 5 1) 0b10#2 rd (imm.extractLsb' 0 5))
  | .cSub rd rs2 => .half (encCa 0b00#2 rd rs2)
  | .cXor rd rs2 => .half (encCa 0b01#2 rd rs2)
  | .cOr rd rs2 => .half (encCa 0b10#2 rd rs2)
  | .cAnd rd rs2 => .half (encCa 0b11#2 rd rs2)
  | .resQ1 bits => .half (0b100111#6 ++ bits ++ 0b01#2)
  | .cJ imm => .half (encSlot 0b101#3 (fieldCj imm) 0b01#2)
  | .cBeqz rs1 imm => .half (encCbr 0b110#3 imm rs1)
  | .cBnez rs1 imm => .half (encCbr 0b111#3 imm rs1)
  | .nseCSlli bits => .half (0b0001#4 ++ bits ++ 0b10#2)
  | .resCSlli rd => .half (encCi 0b000#3 0#1 rd 0#5 0b10#2)
  | .hintCSlli shamt => .half (encCi 0b000#3 0#1 0#5 shamt 0b10#2)
  | .cSlli rd shamt => .half (encCi 0b000#3 0#1 (reg5 rd) shamt 0b10#2)
  | .niCFldsp bits => .half (encSlot 0b001#3 bits 0b10#2)
  | .resCLwsp uimm =>
    .half (encCi 0b010#3 (uimm.extractLsb' 3 1) 0#5 (uimm.extractLsb' 0 3 ++ uimm.extractLsb' 4 2) 0b10#2)
  | .cLwsp rd uimm =>
    .half (encCi 0b010#3 (uimm.extractLsb' 3 1) (reg5 rd) (uimm.extractLsb' 0 3 ++ uimm.extractLsb' 4 2) 0b10#2)
  | .niCFlwsp bits => .half (encSlot 0b011#3 bits 0b10#2)
  | .resCJr => .half 0x8002#16
  | .cJr rs1 => .half (encCi 0b100#3 0#1 (reg5 rs1) 0#5 0b10#2)
  | .hintCMv rs2 => .half (encCi 0b100#3 0#1 0#5 (reg5 rs2) 0b10#2)
  | .cMv rd rs2 => .half (encCi 0b100#3 0#1 (reg5 rd) (reg5 rs2) 0b10#2)
  | .cEbreak => .half 0x9002#16
  | .cJalr rs1 => .half (encCi 0b100#3 1#1 (reg5 rs1) 0#5 0b10#2)
  | .hintCAdd rs2 => .half (encCi 0b100#3 1#1 0#5 (reg5 rs2) 0b10#2)
  | .cAdd rd rs2 => .half (encCi 0b100#3 1#1 (reg5 rd) (reg5 rs2) 0b10#2)
  | .niCFsdsp bits => .half (encSlot 0b101#3 bits 0b10#2)
  | .cSwsp rs2 uimm => .half (encCss uimm rs2)
  | .niCFswsp bits => .half (encSlot 0b111#3 bits 0b10#2)
  | .add rd rs1 rs2 => .full (encR 0b0000000#7 rs2 rs1 0b000#3 rd 0b0110011#7)
  | .sub rd rs1 rs2 => .full (encR 0b0100000#7 rs2 rs1 0b000#3 rd 0b0110011#7)
  | .slt rd rs1 rs2 => .full (encR 0b0000000#7 rs2 rs1 0b010#3 rd 0b0110011#7)
  | .sltu rd rs1 rs2 => .full (encR 0b0000000#7 rs2 rs1 0b011#3 rd 0b0110011#7)
  | .and rd rs1 rs2 => .full (encR 0b0000000#7 rs2 rs1 0b111#3 rd 0b0110011#7)
  | .or rd rs1 rs2 => .full (encR 0b0000000#7 rs2 rs1 0b110#3 rd 0b0110011#7)
  | .xor rd rs1 rs2 => .full (encR 0b0000000#7 rs2 rs1 0b100#3 rd 0b0110011#7)
  | .sll rd rs1 rs2 => .full (encR 0b0000000#7 rs2 rs1 0b001#3 rd 0b0110011#7)
  | .srl rd rs1 rs2 => .full (encR 0b0000000#7 rs2 rs1 0b101#3 rd 0b0110011#7)
  | .sra rd rs1 rs2 => .full (encR 0b0100000#7 rs2 rs1 0b101#3 rd 0b0110011#7)
  | .addi rd rs1 imm => .full (encI imm rs1 0b000#3 rd 0b0010011#7)
  | .slti rd rs1 imm => .full (encI imm rs1 0b010#3 rd 0b0010011#7)
  | .sltiu rd rs1 imm => .full (encI imm rs1 0b011#3 rd 0b0010011#7)
  | .andi rd rs1 imm => .full (encI imm rs1 0b111#3 rd 0b0010011#7)
  | .ori rd rs1 imm => .full (encI imm rs1 0b110#3 rd 0b0010011#7)
  | .xori rd rs1 imm => .full (encI imm rs1 0b100#3 rd 0b0010011#7)
  | .slli rd rs1 shamt => .full (encSh 0b0000000#7 shamt rs1 0b001#3 rd 0b0010011#7)
  | .srli rd rs1 shamt => .full (encSh 0b0000000#7 shamt rs1 0b101#3 rd 0b0010011#7)
  | .srai rd rs1 shamt => .full (encSh 0b0100000#7 shamt rs1 0b101#3 rd 0b0010011#7)
  | .lw rd rs1 imm => .full (encI imm rs1 0b010#3 rd 0b0000011#7)
  | .lh rd rs1 imm => .full (encI imm rs1 0b001#3 rd 0b0000011#7)
  | .lhu rd rs1 imm => .full (encI imm rs1 0b101#3 rd 0b0000011#7)
  | .lb rd rs1 imm => .full (encI imm rs1 0b000#3 rd 0b0000011#7)
  | .lbu rd rs1 imm => .full (encI imm rs1 0b100#3 rd 0b0000011#7)
  | .sw rs2 rs1 imm => .full (encS imm rs2 rs1 0b010#3 0b0100011#7)
  | .sh rs2 rs1 imm => .full (encS imm rs2 rs1 0b001#3 0b0100011#7)
  | .sb rs2 rs1 imm => .full (encS imm rs2 rs1 0b000#3 0b0100011#7)
  | .lui rd imm => .full (encU imm rd 0b0110111#7)
  | .auipc rd imm => .full (encU imm rd 0b0010111#7)
  | .jal rd imm => .full (encU (fieldJ imm) rd 0b1101111#7)
  | .jalr rd rs1 imm => .full (encI imm rs1 0b000#3 rd 0b1100111#7)
  | .beq rs1 rs2 imm => .full (encB imm rs2 rs1 0b000#3 0b1100011#7)
  | .bne rs1 rs2 imm => .full (encB imm rs2 rs1 0b001#3 0b1100011#7)
  | .blt rs1 rs2 imm => .full (encB imm rs2 rs1 0b100#3 0b1100011#7)
  | .bge rs1 rs2 imm => .full (encB imm rs2 rs1 0b101#3 0b1100011#7)
  | .bltu rs1 rs2 imm => .full (encB imm rs2 rs1 0b110#3 0b1100011#7)
  | .bgeu rs1 rs2 imm => .full (encB imm rs2 rs1 0b111#3 0b1100011#7)
  | .ebreak => .full 0x00100073#32
  | .ecall => .full 0x00000073#32
  | .fence hi lo => .full (hi ++ 0b000#3 ++ lo ++ 0b0001111#7)

/-- The value a trap records for an instruction word: 16 bits zero-extended, or 32 bits (R96, R310). -/
def InstWord.info : InstWord → Word
  | .half w => w.zeroExtend 32
  | .full w => w

/-- The bytes of an instruction word, lowest address first (R42). -/
def InstWord.bytes : InstWord → List Byte
  | .half w => [w.extractLsb' 0 8, w.extractLsb' 8 8]
  | .full w => [w.extractLsb' 0 8, w.extractLsb' 8 8, w.extractLsb' 16 8, w.extractLsb' 24 8]

/-- `len`: 2 for a compressed and 4 for a 32-bit word (R16, R70). -/
def InstWord.length : InstWord → Nat
  | .half _ => 2
  | .full _ => 4

end Sys2Proof
end

