-- ==== Sys2Proof/Machine/State.lean ====
section
/-! DEFINITION. The machine's state as plain data (10_state.md), how a step can stop (00_scope.md R8, 60_exceptions.md
R310), launch and reset (70_reset_and_hazards.md R350 to R352). -/
namespace Sys2Proof.Machine

/-! ### How a step can stop -/

/-- The eight exceptions (R310). -/
inductive Cause where
  | instructionAccessFault
  | illegalInstruction
  | breakpoint
  | environmentCall
  | loadAddressMisaligned
  | storeAddressMisaligned
  | loadAccessFault
  | storeAccessFault
  deriving DecidableEq, Repr

/-- Why the machine stops with a fault. -/
inductive Fault where
  /-- `Trapped(E, pc, info)` (R314): raised by `raise`, from every exception of R310. The spec makes it terminal: no handler
  address is known. `pc` is the raising instruction's address, `info` the value R310 records (`none` for breakpoint and
  environment call). Safe (log 1). -/
  | trapped (cause : Cause) (pc : Word) (info : Option Word)
  deriving DecidableEq, Repr

/-- Situations the spec gives no meaning (R8 (c)). -/
inductive Refusal where
  /-- An instruction whose meaning is not written yet: raised by no arm of this model. Safe. -/
  | notModelled (mnemonic : String)
  /-- A store any of whose bytes lies in `CODE_REGION` (R45, R52); `addr` is its first address. Raised by `memWrite`. Safe
  (log 2). -/
  | codeRegionStore (addr : Word)
  /-- A fetch of a byte that no longer holds what the launch put there: self-modifying code has no meaning (R52, D5); `pc` is
  the address of the instruction. Raised by `State.fetchParcel`. Safe (log 20). -/
  | selfModifiedCode (pc : Word)
  /-- A READ `DoA` in a mode for which the source has no procedure (R129, U19). Raised by the CIM operation `doA` only, which
  no instruction reaches (R131). Safe (log 15). -/
  | cimModeUndescribed
  /-- A WRITE `DoA` with more than one bit of `RS` set (R125, U18). Raised by the CIM operation `doA` only. Safe (log 15). -/
  | cimSeveralRows
  deriving DecidableEq, Repr

/-! ### Memory -/

/-- Memory: a partial map from byte addresses to bytes (R34) as a list of cells, in the one form `Memory.wf`. An address it
does not list has no value in the map. -/
abbrev Memory := List Host.Cell

/-- Addresses strictly rising from `lo` on, each in the 32-bit space. -/
def Memory.risingFrom (lo : Nat) : Memory → Bool
  | [] => true
  | (a, _) :: m => decide (lo ≤ a) && decide (a < Config.addressSpace) && Memory.risingFrom (a + 1) m

/-- The canonical form: addresses strictly rising. What an unlisted address holds is no value, so no listed byte equals it
and equal maps are equal lists (log 8). -/
def Memory.wf (m : Memory) : Bool := Memory.risingFrom 0 m

/-! ### CIM state (10_state.md section 5) -/

/-- `FS`'s operation field (R30). -/
inductive CimOp where
  | write
  | read
  deriving DecidableEq, Repr

/-- `FS`'s MVM mode field (R121). -/
inductive MvmMode where
  | forward
  | backward
  | recurrent
  deriving DecidableEq, Repr

/-- Function State: its named fields; no bit layout is given (R30, C10). -/
structure FsReg where
  op : CimOp
  mode : MvmMode
  precision : Precision
  deriving DecidableEq, Repr

/-- SAR ADC Mode: the CPU register `DoR` delivers into, and the precision (R31). -/
structure SamReg where
  resultReg : Reg
  precision : Precision
  deriving DecidableEq, Repr

/-- One memristor cell: the element programmed and the precision of that write (R26, R30; log 12). -/
structure WeightCell where
  precision : Precision
  value : Byte
  deriving DecidableEq, Repr

/-- One corelet: 4 rows of 4 cells (R26). -/
abbrev Corelet := Vector (Vector WeightCell 4) 4

/-- The CIM unit. No instruction reads or writes it (R131). -/
structure CimState where
  /-- 16 corelets, `C00` to `C33` by rows (R26). -/
  cells : Vector Corelet 16
  /-- Row Select, bit `i` for row `i` (R27). -/
  rs : BitVec 4
  /-- Write Data, one element a column (R28; log 12). -/
  wd : Vector Byte 4
  /-- Write Data Strobe, bit `c` for column `c` (R29). -/
  wds : BitVec 4
  /-- Function State (R30). -/
  fs : FsReg
  /-- SAR ADC Mode (R31). -/
  sam : SamReg
  /-- Column Select (R32; log 12). -/
  cs : BitVec 2
  /-- The column outputs a READ `DoA` drives, before `DoS` captures them (R127). The model's own field (log 14). DESIGN CHOICE
  one set of four for the whole unit, of the corelet `DoA` last read (log 23). -/
  columns : Vector Int 4
  /-- The sample-and-hold latch, one captured value a column (R33; log 13). DESIGN CHOICE one latch for the whole unit
  (log 23). -/
  hold : Vector Int 4
  deriving DecidableEq, Repr

/-! ### State -/

/-- What a launch fixes for its run: the OPEN parameters (R4) and the launch image (R352), held as data beside the state: no
step changes them (log 3). -/
structure Params where
  /-- `MEM_VALID` (R47). -/
  memValid : List Span
  /-- `CODE_REGION` (R52). -/
  codeRegion : List Span
  /-- `SLTIU_IMM_EXT` (R232). -/
  sltiuImmExt : ImmExt
  /-- The launch image (R352): fetch always reads it (R52; log 20). -/
  image : Memory
  deriving DecidableEq, Repr

/-- The machine's state. -/
structure State where
  /-- The address of the instruction being executed (R15). -/
  pc : Word
  /-- `x1` to `x15`, `x1` first; `x0` is no state (R10, R12). -/
  regs : Vector Word 15
  /-- Memory (R34). -/
  mem : Memory
  /-- The CIM unit (R26 to R33). -/
  cim : CimState
  /-- The run's parameters. -/
  params : Params
  deriving DecidableEq, Repr

/-! ### Launch and reset -/

/-- What determines a run (R352). A register or CIM field the spec leaves unspecified at launch has a value here too: a claim
about a run quantifies over it (R351, D7; log 6, 7). -/
structure Launch where
  memValid : List Span
  image : Memory
  codeRegion : List Span
  resetPc : Word
  regs : Vector Word 15
  sltiuImmExt : ImmExt
  cim : CimState
  deriving DecidableEq, Repr

/-- The CIM unit of `State.reset`: unspecified (R19); DESIGN CHOICE every field at its zero (log 7, unsafe). -/
def CimState.reset : CimState where
  cells := Vector.replicate 16 (Vector.replicate 4 (Vector.replicate 4 ⟨0, 0⟩))
  rs := 0
  wd := Vector.replicate 4 0
  wds := 0
  fs := ⟨.write, .forward, 0⟩
  sam := ⟨0, 0⟩
  cs := 0
  columns := Vector.replicate 4 0
  hold := Vector.replicate 4 0

/-- The machine at launch: reset has happened and the program is in memory (R350 to R352). -/
def State.launch (l : Launch) : State where
  pc := l.resetPc
  regs := l.regs
  mem := l.image
  cim := l.cim
  params := ⟨l.memValid, l.codeRegion, l.sltiuImmExt, l.image⟩

/-- The launch that gives nothing: no image, `x1` to `x15` at 0 (log 6), the CIM unit at its zero (log 7), the OPEN
parameters at their Config values (log 3, 4, 5). -/
def Launch.bare : Launch where
  memValid := Config.resetMemValid
  image := []
  codeRegion := Config.resetCodeRegion
  resetPc := Config.resetPc
  regs := Vector.replicate 15 0
  sltiuImmExt := Config.sltiuImmExt
  cim := CimState.reset

/-- The machine right after reset, with no program loaded (R19, R351; log 17). -/
def State.reset : State := State.launch Launch.bare

/-- The outcome of one step (R8): next state, trapped, refused. -/
abbrev Result := Host.Outcome State Fault Refusal

end Sys2Proof.Machine
end

