-- ==== Sys2Proof/Machine/Ops.lean ====
section
/-! DEFINITION. The named operations every meaning is written over: registers (10_state.md R12), the program counter (R16),
memory (20_memory.md R44 to R52), fetch (R50 to R52), and raising an exception (60_exceptions.md R314). There is no return from
an exception: the spec has none (R318). -/
namespace Sys2Proof.Machine

/-! ### Registers and the program counter -/

/-- The place of `xr`, r ≠ 0, in `State.regs`. -/
theorem regIndex_lt (r : Reg) : r.toNat - 1 < 15 := by have := r.isLt; omega

/-- `x[r]`: `x0` reads as 0 (R12). -/
def State.readReg (s : State) (r : Reg) : Word :=
  if r = 0 then 0 else s.regs[r.toNat - 1]'(regIndex_lt r)

/-- `x[r] <- v`: a write to `x0` is discarded (R12). -/
def State.writeReg (s : State) (r : Reg) (v : Word) : State :=
  if r = 0 then s else { s with regs := s.regs.set (r.toNat - 1) v (regIndex_lt r) }

/-- The state with another memory map. -/
def State.setMem (s : State) (m : Memory) : State := { s with mem := m }

/-- The state with another CIM unit. -/
def State.setCim (s : State) (c : CimState) : State := { s with cim := c }

/-- The state with another `MEM_VALID`: no step does this. -/
def State.setMemValid (s : State) (spans : List Span) : State :=
  { s with params := { s.params with memValid := spans } }

/-- The state with another launch image: no step does this. -/
def State.setImage (s : State) (m : Memory) : State := { s with params := { s.params with image := m } }

/-- `pc <- t`. -/
def State.setPc (s : State) (t : Word) : State := { s with pc := t }

/-- `pc <- pc + len`, modulo 2^32 (R16, R18). -/
def State.advance (s : State) (len : Word) : State := s.setPc (s.pc + len)

/-! ### Raising an exception -/

/-- `raise E(info)`: the step's outcome is `Trapped(E, pc, info)`; nothing is changed and the run does not continue (R314). -/
def raise {α : Type} (cause : Cause) (info : Option Word) (s : State) : Host.Outcome α Fault Refusal :=
  .fault (.trapped cause s.pc info)

/-- `raise IllegalInstruction(inst)` (R96). -/
def raiseIllegal (w : InstWord) (s : State) : Result := raise .illegalInstruction (some w.info) s

/-- What follows an outcome that is a next state. -/
def andThen {α β : Type} (r : Host.Outcome α Fault Refusal) (f : α → Host.Outcome β Fault Refusal) :
    Host.Outcome β Fault Refusal :=
  match r with
  | .next s => f s
  | .fault e => .fault e
  | .refused e => .refused e

/-! ### Address sets -/

/-- The address lies in the span. -/
def Span.contains (sp : Span) (a : Nat) : Bool := decide (sp.base ≤ a) && decide (a < sp.base + sp.size)

/-- The address lies in one of the spans. -/
def spansContain (spans : List Span) (a : Nat) : Bool := spans.any fun sp => Span.contains sp a

/-- `MEM_VALID(a)` (R47). -/
def State.valid (s : State) (a : Word) : Bool := spansContain s.params.memValid a.toNat

/-- `a` is in `CODE_REGION` (R52). -/
def State.inCode (s : State) (a : Word) : Bool := spansContain s.params.codeRegion a.toNat

/-! ### The memory map -/

/-- The byte listed at an address, if any. -/
def Memory.byte? : Memory → Nat → Option Byte
  | [], _ => none
  | (k, b) :: m, a => if k = a then some b else Memory.byte? m a

/-- The map with one byte set, in canonical form again. -/
def Memory.put : Memory → Nat → Byte → Memory
  | [], a, b => [(a, b)]
  | (k, c) :: m, a, b =>
    if a < k then (a, b) :: (k, c) :: m
    else if a = k then (a, b) :: m
    else (k, c) :: Memory.put m a b

/-- The map with consecutive bytes set from `a` on, addresses modulo 2^32 (R18, R45). -/
def Memory.putBytes (m : Memory) (a : Word) : List Byte → Memory
  | [] => m
  | b :: bs => Memory.putBytes (Memory.put m a.toNat b) (a + 1) bs

/-- `mem[a]`: the listed byte, or the byte the address held at launch (R34, R55.2). -/
def State.readByte (s : State) (a : Word) : Byte := (Memory.byte? s.mem a.toNat).getD (Config.initialByte a.toNat)

/-! ### Accesses -/

/-- The access widths (R43). -/
inductive Width where
  | byte
  | half
  | word
  deriving DecidableEq, Repr

/-- The width in bytes. -/
@[reducible] def Width.bytes : Width → Nat
  | .byte => 1
  | .half => 2
  | .word => 4

/-- `8n` bits. -/
abbrev Width.Value (n : Width) := BitVec (8 * n.bytes)

/-- The byte addresses of an access, modulo 2^32 (R18, R44). -/
def accessBytes (n : Width) (addr : Word) : List Word := (List.range n.bytes).map fun i => addr + BitVec.ofNat 32 i

/-- `addr mod n = 0` (R46). -/
def aligned (n : Width) (addr : Word) : Bool := addr.toNat % n.bytes == 0

/-- Every byte of the access is in `MEM_VALID` (R47). -/
def State.accessValid (s : State) (n : Width) (addr : Word) : Bool := (accessBytes n addr).all s.valid

/-- Some byte of the access is in `CODE_REGION` (R52). -/
def State.accessInCode (s : State) (n : Width) (addr : Word) : Bool := (accessBytes n addr).any s.inCode

/-- The bytes of an access put together, the lowest address in bits 7:0 (R42). -/
def State.readValue (s : State) : (n : Width) → Word → n.Value
  | .byte, a => s.readByte a
  | .half, a => s.readByte (a + 1) ++ s.readByte a
  | .word, a => s.readByte (a + 3) ++ s.readByte (a + 2) ++ s.readByte (a + 1) ++ s.readByte a

/-- The bytes of a value, bits 7:0 first (R42, R45). -/
def valueBytes (n : Width) (v : n.Value) : List Byte := (List.range n.bytes).map fun i => v.extractLsb' (8 * i) 8

/-- `MemRead(addr, n)`: alignment before validity (R44, R48). -/
def State.memRead (s : State) (n : Width) (addr : Word) : Except Cause n.Value :=
  if aligned n addr then
    if s.accessValid n addr then .ok (s.readValue n addr) else .error .loadAccessFault
  else .error .loadAddressMisaligned

/-- `MemWrite(addr, n, v)`: every check before any byte is written (R45, R52). -/
def State.memWrite (s : State) (n : Width) (addr : Word) (v : n.Value) : Result :=
  if aligned n addr then
    if s.accessValid n addr then
      if s.accessInCode n addr then .refused (.codeRegionStore addr)
      else .next (s.setMem (Memory.putBytes s.mem addr (valueBytes n v)))
    else raise .storeAccessFault (some addr) s
  else raise .storeAddressMisaligned (some addr) s

/-! ### Fetch -/

/-- Both bytes of the parcel at `a` are in `MEM_VALID` (R51). -/
def State.parcelValid (s : State) (a : Word) : Bool := s.valid a && s.valid (a + 1)

/-- The byte at `a` is as the launch left it: memory lists for it what the launch image lists (R352; log 20). -/
def State.launched (s : State) (a : Word) : Bool := Memory.byte? s.mem a.toNat == Memory.byte? s.params.image a.toNat

/-- Both bytes of the parcel at `a` are as the launch left them. -/
def State.parcelLaunched (s : State) (a : Word) : Bool := s.launched a && s.launched (a + 1)

/-- `MemFetch(a, 2)`: a byte outside `MEM_VALID` is an instruction access fault with the `pc` of the instruction (R51); a byte
that no longer holds the launch image's has no meaning as code (R52; log 20). -/
def State.fetchParcel (s : State) (a : Word) : Host.Outcome Half Fault Refusal :=
  if s.parcelValid a then
    if s.parcelLaunched a then .next (s.readValue .half a) else .refused (.selfModifiedCode s.pc)
  else raise .instructionAccessFault (some s.pc) s

/-- The instruction word at `pc`: one parcel, or two where the first says 32 bits (R50). -/
def State.fetch (s : State) : Host.Outcome InstWord Fault Refusal :=
  andThen (s.fetchParcel s.pc) fun p0 =>
    if p0.extractLsb' 0 2 = 0b11#2 then andThen (s.fetchParcel (s.pc + 2)) fun p1 => .next (.full (p1 ++ p0))
    else .next (.half p0)

/-! ### The shapes of an instruction's effect -/

/-- `x[rd] <- v; pc <- pc + len`. -/
def finish (rd : Reg) (v : Word) (len : Word) (s : State) : Result := .next ((s.writeReg rd v).advance len)

/-- Only `pc <- pc + len`. -/
def skip (len : Word) (s : State) : Result := .next (s.advance len)

/-- `x[rd] <- link; pc <- target`, both from values read before (R296). -/
def jumpLink (rd : Reg) (link target : Word) (s : State) : Result := .next ((s.writeReg rd link).setPc target)

/-- `pc <- target`. -/
def jump (target : Word) (s : State) : Result := .next (s.setPc target)

/-- `if c: pc <- pc + off else: pc <- pc + len`. -/
def branch (c : Bool) (off len : Word) (s : State) : Result := if c then jump (s.pc + off) s else skip len s

/-- `x[rd] <- ext(MemRead(addr, n)); pc <- pc + len`; an exception records `addr` and writes nothing (R259, R316). -/
def load (n : Width) (ext : n.Value → Word) (rd : Reg) (addr len : Word) (s : State) : Result :=
  match s.memRead n addr with
  | .ok v => finish rd (ext v) len s
  | .error cause => raise cause (some addr) s

/-- `MemWrite(addr, n, v); pc <- pc + len` (R260). -/
def store (n : Width) (addr : Word) (v : n.Value) (len : Word) (s : State) : Result :=
  andThen (s.memWrite n addr v) fun t => skip len t

end Sys2Proof.Machine
end

