-- ==== Sys2Proof/Machine/Alu.lean ====
section
/-! DEFINITION. The nineteen 32-bit arithmetic and logical instructions (44_alu.md). Each ends with `pc <- pc + 4`, touches no
memory and raises nothing. -/
namespace Sys2Proof.Machine

/-- `x[rd] <- f(x[rs1], x[rs2])` of a 32-bit instruction. -/
def opRR (f : Word → Word → Word) (rd rs1 rs2 : Reg) (s : State) : Result :=
  finish rd (f (s.readReg rs1) (s.readReg rs2)) 4 s

/-- `x[rd] <- f(x[rs1], imm)` of a 32-bit instruction. -/
def opRI (f : Word → Word → Word) (rd rs1 : Reg) (imm : Word) (s : State) : Result :=
  finish rd (f (s.readReg rs1) imm) 4 s

/-- `x[rd] <- f(x[rs1], shamt)` of a 32-bit instruction. -/
def opShift (f : Word → BitVec 5 → Word) (rd rs1 : Reg) (shamt : BitVec 5) (s : State) : Result :=
  finish rd (f (s.readReg rs1) shamt) 4 s

/-- ADD, modulo 2^32 (R220). -/
def execAdd (rd rs1 rs2 : Reg) (s : State) : Result := opRR (fun a b => a + b) rd rs1 rs2 s
/-- SUB, modulo 2^32 (R221). -/
def execSub (rd rs1 rs2 : Reg) (s : State) : Result := opRR (fun a b => a - b) rd rs1 rs2 s
/-- SLT (R222). -/
def execSlt (rd rs1 rs2 : Reg) (s : State) : Result := opRR (fun a b => bool32 (ltS a b)) rd rs1 rs2 s
/-- SLTU (R223). -/
def execSltu (rd rs1 rs2 : Reg) (s : State) : Result := opRR (fun a b => bool32 (ltU a b)) rd rs1 rs2 s
/-- AND (R224). -/
def execAnd (rd rs1 rs2 : Reg) (s : State) : Result := opRR (fun a b => a &&& b) rd rs1 rs2 s
/-- OR (R225). -/
def execOr (rd rs1 rs2 : Reg) (s : State) : Result := opRR (fun a b => a ||| b) rd rs1 rs2 s
/-- XOR (R226). -/
def execXor (rd rs1 rs2 : Reg) (s : State) : Result := opRR (fun a b => a ^^^ b) rd rs1 rs2 s
/-- SLL, by the low five bits of `x[rs2]` (R227). -/
def execSll (rd rs1 rs2 : Reg) (s : State) : Result := opShift sllW rd rs1 (shiftAmount (s.readReg rs2)) s
/-- SRL, by the low five bits of `x[rs2]` (R228). -/
def execSrl (rd rs1 rs2 : Reg) (s : State) : Result := opShift srlW rd rs1 (shiftAmount (s.readReg rs2)) s
/-- SRA, by the low five bits of `x[rs2]` (R229). -/
def execSra (rd rs1 rs2 : Reg) (s : State) : Result := opShift sraW rd rs1 (shiftAmount (s.readReg rs2)) s

/-- ADDI (R230). -/
def execAddi (rd rs1 : Reg) (imm : BitVec 12) (s : State) : Result := opRI (fun a b => a + b) rd rs1 (immI imm) s
/-- SLTI (R231). -/
def execSlti (rd rs1 : Reg) (imm : BitVec 12) (s : State) : Result := opRI (fun a b => bool32 (ltS a b)) rd rs1 (immI imm) s
/-- SLTIU: the immediate by `SLTIU_IMM_EXT` (R232). -/
def execSltiu (rd rs1 : Reg) (imm : BitVec 12) (s : State) : Result :=
  opRI (fun a b => bool32 (ltU a b)) rd rs1 (immSltiu s.params.sltiuImmExt imm) s
/-- ANDI (R233). -/
def execAndi (rd rs1 : Reg) (imm : BitVec 12) (s : State) : Result := opRI (fun a b => a &&& b) rd rs1 (immI imm) s
/-- ORI (R234). -/
def execOri (rd rs1 : Reg) (imm : BitVec 12) (s : State) : Result := opRI (fun a b => a ||| b) rd rs1 (immI imm) s
/-- XORI (R235). -/
def execXori (rd rs1 : Reg) (imm : BitVec 12) (s : State) : Result := opRI (fun a b => a ^^^ b) rd rs1 (immI imm) s
/-- SLLI (R236). -/
def execSlli (rd rs1 : Reg) (shamt : BitVec 5) (s : State) : Result := opShift sllW rd rs1 shamt s
/-- SRLI (R237). -/
def execSrli (rd rs1 : Reg) (shamt : BitVec 5) (s : State) : Result := opShift srlW rd rs1 shamt s
/-- SRAI (R238). -/
def execSrai (rd rs1 : Reg) (shamt : BitVec 5) (s : State) : Result := opShift sraW rd rs1 shamt s

end Sys2Proof.Machine
end

