-- ==== Sys2Proof/Machine/ControlFlow.lean ====
section
/-! DEFINITION. The eight 32-bit jumps and branches (47_control_flow.md). They raise nothing; offsets are from the
instruction's own address. -/
namespace Sys2Proof.Machine

/-- JAL (R280). -/
def execJal (rd : Reg) (imm : BitVec 20) (s : State) : Result := jumpLink rd (s.pc + 4) (s.pc + offJ imm) s

/-- JALR: the target uses the old `x[rs1]` and its bit 0 is cleared (R281, R296). -/
def execJalr (rd rs1 : Reg) (imm : BitVec 12) (s : State) : Result :=
  jumpLink rd (s.pc + 4) (evenTarget (s.readReg rs1 + immI imm)) s

/-- A branch on a comparison of two registers (section 3). -/
def branchRR (c : Word → Word → Bool) (rs1 rs2 : Reg) (imm : BitVec 12) (s : State) : Result :=
  branch (c (s.readReg rs1) (s.readReg rs2)) (offB imm) 4 s

/-- BEQ (R282). -/
def execBeq (rs1 rs2 : Reg) (imm : BitVec 12) (s : State) : Result := branchRR (fun a b => a == b) rs1 rs2 imm s
/-- BNE (R283). -/
def execBne (rs1 rs2 : Reg) (imm : BitVec 12) (s : State) : Result := branchRR (fun a b => a != b) rs1 rs2 imm s
/-- BLT (R284). -/
def execBlt (rs1 rs2 : Reg) (imm : BitVec 12) (s : State) : Result := branchRR (fun a b => ltS a b) rs1 rs2 imm s
/-- BGE (R285). -/
def execBge (rs1 rs2 : Reg) (imm : BitVec 12) (s : State) : Result := branchRR (fun a b => !ltS a b) rs1 rs2 imm s
/-- BLTU (R286). -/
def execBltu (rs1 rs2 : Reg) (imm : BitVec 12) (s : State) : Result := branchRR (fun a b => ltU a b) rs1 rs2 imm s
/-- BGEU (R287). -/
def execBgeu (rs1 rs2 : Reg) (imm : BitVec 12) (s : State) : Result := branchRR (fun a b => !ltU a b) rs1 rs2 imm s

end Sys2Proof.Machine
end

