-- ==== Sys2Proof/Machine/LoadStore.lean ====
section
/-! DEFINITION. The eight 32-bit loads and stores (45_load_store.md). -/
namespace Sys2Proof.Machine

/-- `addr = (x[rs1] + sext_32(imm)) mod 2^32` (R258). -/
def effAddr (s : State) (rs1 : Reg) (imm : BitVec 12) : Word := s.readReg rs1 + immI imm

/-- LW (R250, R259). -/
def execLw (rd rs1 : Reg) (imm : BitVec 12) (s : State) : Result := load .word (fun v => v) rd (effAddr s rs1 imm) 4 s
/-- LH: sign-extends (R251). -/
def execLh (rd rs1 : Reg) (imm : BitVec 12) (s : State) : Result :=
  load .half (fun v => v.signExtend 32) rd (effAddr s rs1 imm) 4 s
/-- LHU: zero-extends (R252). -/
def execLhu (rd rs1 : Reg) (imm : BitVec 12) (s : State) : Result :=
  load .half (fun v => v.zeroExtend 32) rd (effAddr s rs1 imm) 4 s
/-- LB: sign-extends (R253). -/
def execLb (rd rs1 : Reg) (imm : BitVec 12) (s : State) : Result :=
  load .byte (fun v => v.signExtend 32) rd (effAddr s rs1 imm) 4 s
/-- LBU: zero-extends (R254). -/
def execLbu (rd rs1 : Reg) (imm : BitVec 12) (s : State) : Result :=
  load .byte (fun v => v.zeroExtend 32) rd (effAddr s rs1 imm) 4 s
/-- SW (R255, R260). -/
def execSw (rs2 rs1 : Reg) (imm : BitVec 12) (s : State) : Result := store .word (effAddr s rs1 imm) (s.readReg rs2) 4 s
/-- SH: bits 15:0 of `x[rs2]` (R256). -/
def execSh (rs2 rs1 : Reg) (imm : BitVec 12) (s : State) : Result :=
  store .half (effAddr s rs1 imm) ((s.readReg rs2).extractLsb' 0 16) 4 s
/-- SB: bits 7:0 of `x[rs2]` (R257). -/
def execSb (rs2 rs1 : Reg) (imm : BitVec 12) (s : State) : Result :=
  store .byte (effAddr s rs1 imm) ((s.readReg rs2).extractLsb' 0 8) 4 s

end Sys2Proof.Machine
end

