-- ==== Sys2Proof/Machine/Quadrant0.lean ====
section
/-! DEFINITION. Compressed instructions of Quadrant 0 (41_c_quadrant0.md), its illegal word and its unused slots. -/
namespace Sys2Proof.Machine

/-- The defined illegal instruction `0x0000` (R150). -/
def execCIllegal (s : State) : Result := raiseIllegal (encode .cIllegal) s

/-- C.ADDI4SPN with `nzuimm = 0`, reserved (R151). -/
def execResCAddi4spn (rd : CReg) (s : State) : Result := raiseIllegal (encode (.resCAddi4spn rd)) s

/-- C.ADDI4SPN (R152). -/
def execCAddi4spn (rd : CReg) (nzuimm : BitVec 8) (s : State) : Result :=
  finish (creg rd) (s.readReg sp + immCAddi4spn nzuimm) 2 s

/-- C.FLD slot (R155). -/
def execNiCFld (bits : BitVec 11) (s : State) : Result := raiseIllegal (encode (.niCFld bits)) s

/-- The effective address of C.LW and C.SW (R153, R154). -/
def clAddr (s : State) (rs1 : CReg) (uimm : BitVec 5) : Word := s.readReg (creg rs1) + offCl uimm

/-- C.LW (R153). -/
def execCLw (rd rs1 : CReg) (uimm : BitVec 5) (s : State) : Result :=
  load .word (fun v => v) (creg rd) (clAddr s rs1 uimm) 2 s

/-- C.FLW slot (R155). -/
def execNiCFlw (bits : BitVec 11) (s : State) : Result := raiseIllegal (encode (.niCFlw bits)) s

/-- Slot `100`, reserved (R155). -/
def execResQ0F4 (bits : BitVec 11) (s : State) : Result := raiseIllegal (encode (.resQ0F4 bits)) s

/-- C.FSD slot (R155). -/
def execNiCFsd (bits : BitVec 11) (s : State) : Result := raiseIllegal (encode (.niCFsd bits)) s

/-- C.SW (R154). -/
def execCSw (rs2 rs1 : CReg) (uimm : BitVec 5) (s : State) : Result :=
  store .word (clAddr s rs1 uimm) (s.readReg (creg rs2)) 2 s

/-- Slot `111`, not listed (R155). -/
def execUnQ0F7 (bits : BitVec 11) (s : State) : Result := raiseIllegal (encode (.unQ0F7 bits)) s

end Sys2Proof.Machine
end

