-- ==== Sys2Proof/Machine/Quadrant1.lean ====
section
/-! DEFINITION. Compressed instructions of Quadrant 1 (42_c_quadrant1.md), its hints and reserved words. -/
namespace Sys2Proof.Machine

/-- `x[8 + rd'] <- f(x[8 + rd'], x[8 + rs2'])` of a compressed instruction. -/
def opCRR (f : Word → Word → Word) (rd rs2 : CReg) (s : State) : Result :=
  finish (creg rd) (f (s.readReg (creg rd)) (s.readReg (creg rs2))) 2 s

/-- C.NOP, for every `nzimm` (R170). -/
def execCNop (_nzimm : BitVec 6) (s : State) : Result := skip 2 s

/-- C.ADDI (R171). -/
def execCAddi (rd : Reg) (nzimm : BitVec 6) (s : State) : Result := finish rd (s.readReg rd + immC nzimm) 2 s

/-- C.JAL (R172). -/
def execCJal (imm : BitVec 11) (s : State) : Result := jumpLink ra (s.pc + 2) (s.pc + offCj imm) s

/-- Hint: C.LI with `rd = 0` (R174). -/
def execHintCLi (_imm : BitVec 6) (s : State) : Result := skip 2 s

/-- C.LI (R173). -/
def execCLi (rd : Reg) (imm : BitVec 6) (s : State) : Result := finish rd (immC imm) 2 s

/-- C.ADDI16SP with `nzimm = 0`, reserved (R176). -/
def execResCAddi16sp (s : State) : Result := raiseIllegal (encode .resCAddi16sp) s

/-- C.ADDI16SP (R175). -/
def execCAddi16sp (nzimm : BitVec 6) (s : State) : Result := finish sp (s.readReg sp + immCAddi16sp nzimm) 2 s

/-- C.LUI with `nzimm = 0`, reserved (R178). -/
def execResCLui (rd : BitVec 5) (s : State) : Result := raiseIllegal (encode (.resCLui rd)) s

/-- Hint: C.LUI with `rd = 0` (R179). -/
def execHintCLui (_nzimm : BitVec 6) (s : State) : Result := skip 2 s

/-- C.LUI (R177). -/
def execCLui (rd : Reg) (nzimm : BitVec 6) (s : State) : Result := finish rd (immCLui nzimm) 2 s

/-- C.SRLI with shift amount 0, reserved (R182). -/
def execResCSrli (rd : CReg) (s : State) : Result := raiseIllegal (encode (.resCSrli rd)) s

/-- C.SRLI (R180). -/
def execCSrli (rd : CReg) (shamt : BitVec 5) (s : State) : Result :=
  finish (creg rd) (srlW (s.readReg (creg rd)) shamt) 2 s

/-- C.SRLI with `inst[12] = 1`, non-standard (R182). -/
def execNseCSrli (rd : CReg) (shamt : BitVec 5) (s : State) : Result := raiseIllegal (encode (.nseCSrli rd shamt)) s

/-- C.SRAI with shift amount 0, reserved (R182). -/
def execResCSrai (rd : CReg) (s : State) : Result := raiseIllegal (encode (.resCSrai rd)) s

/-- C.SRAI (R181). -/
def execCSrai (rd : CReg) (shamt : BitVec 5) (s : State) : Result :=
  finish (creg rd) (sraW (s.readReg (creg rd)) shamt) 2 s

/-- C.SRAI with `inst[12] = 1`, non-standard (R182). -/
def execNseCSrai (rd : CReg) (shamt : BitVec 5) (s : State) : Result := raiseIllegal (encode (.nseCSrai rd shamt)) s

/-- C.ANDI (R183). -/
def execCAndi (rd : CReg) (imm : BitVec 6) (s : State) : Result :=
  finish (creg rd) (s.readReg (creg rd) &&& immC imm) 2 s

/-- C.SUB (R184). -/
def execCSub (rd rs2 : CReg) (s : State) : Result := opCRR (fun a b => a - b) rd rs2 s
/-- C.XOR (R185). -/
def execCXor (rd rs2 : CReg) (s : State) : Result := opCRR (fun a b => a ^^^ b) rd rs2 s
/-- C.OR (R186). -/
def execCOr (rd rs2 : CReg) (s : State) : Result := opCRR (fun a b => a ||| b) rd rs2 s
/-- C.AND (R187). -/
def execCAnd (rd rs2 : CReg) (s : State) : Result := opCRR (fun a b => a &&& b) rd rs2 s

/-- Group `100 1 11`, reserved (R188). -/
def execResQ1 (bits : BitVec 8) (s : State) : Result := raiseIllegal (encode (.resQ1 bits)) s

/-- C.J (R189). -/
def execCJ (imm : BitVec 11) (s : State) : Result := jump (s.pc + offCj imm) s

/-- C.BEQZ (R190). -/
def execCBeqz (rs1 : CReg) (imm : BitVec 8) (s : State) : Result :=
  branch (s.readReg (creg rs1) == 0) (offCb imm) 2 s

/-- C.BNEZ (R191). -/
def execCBnez (rs1 : CReg) (imm : BitVec 8) (s : State) : Result :=
  branch (s.readReg (creg rs1) != 0) (offCb imm) 2 s

end Sys2Proof.Machine
end

