-- ==== Sys2Proof/Machine/Quadrant2.lean ====
section
/-! DEFINITION. Compressed instructions of Quadrant 2 (43_c_quadrant2.md), its hints, reserved words and unused slots. -/
namespace Sys2Proof.Machine

/-- C.SLLI with `inst[12] = 1`, non-standard (R202). -/
def execNseCSlli (bits : BitVec 10) (s : State) : Result := raiseIllegal (encode (.nseCSlli bits)) s

/-- C.SLLI with shift amount 0, reserved (R202). -/
def execResCSlli (rd : BitVec 5) (s : State) : Result := raiseIllegal (encode (.resCSlli rd)) s

/-- Hint: C.SLLI with `rd = 0` (R201). -/
def execHintCSlli (_shamt : BitVec 5) (s : State) : Result := skip 2 s

/-- C.SLLI (R200). -/
def execCSlli (rd : Reg) (shamt : BitVec 5) (s : State) : Result := finish rd (sllW (s.readReg rd) shamt) 2 s

/-- C.FLDSP slot (R216). -/
def execNiCFldsp (bits : BitVec 11) (s : State) : Result := raiseIllegal (encode (.niCFldsp bits)) s

/-- C.LWSP with `rd = 0`, reserved: no access is made (R204). -/
def execResCLwsp (uimm : BitVec 6) (s : State) : Result := raiseIllegal (encode (.resCLwsp uimm)) s

/-- The effective address of C.LWSP and C.SWSP (R203, R213). -/
def spAddr (s : State) (uimm : BitVec 6) : Word := s.readReg sp + offSp uimm

/-- C.LWSP (R203). -/
def execCLwsp (rd : Reg) (uimm : BitVec 6) (s : State) : Result := load .word (fun v => v) rd (spAddr s uimm) 2 s

/-- C.FLWSP slot (R216). -/
def execNiCFlwsp (bits : BitVec 11) (s : State) : Result := raiseIllegal (encode (.niCFlwsp bits)) s

/-- C.JR with `rs1 = 0`, reserved (R206). -/
def execResCJr (s : State) : Result := raiseIllegal (encode .resCJr) s

/-- C.JR (R205). -/
def execCJr (rs1 : Reg) (s : State) : Result := jump (evenTarget (s.readReg rs1)) s

/-- Hint: C.MV with `rd = 0` (R208). -/
def execHintCMv (_rs2 : Reg) (s : State) : Result := skip 2 s

/-- C.MV (R207). -/
def execCMv (rd rs2 : Reg) (s : State) : Result := finish rd (s.readReg rs2) 2 s

/-- C.EBREAK raises `Breakpoint` (R209). -/
def execCEbreak (s : State) : Result := raise .breakpoint none s

/-- C.JALR: the target uses the old `x[rs1]` (R210, R296). -/
def execCJalr (rs1 : Reg) (s : State) : Result := jumpLink ra (s.pc + 2) (evenTarget (s.readReg rs1)) s

/-- Hint: C.ADD with `rd = 0` (R212). -/
def execHintCAdd (_rs2 : Reg) (s : State) : Result := skip 2 s

/-- C.ADD (R211). -/
def execCAdd (rd rs2 : Reg) (s : State) : Result := finish rd (s.readReg rd + s.readReg rs2) 2 s

/-- C.FSDSP slot (R216). -/
def execNiCFsdsp (bits : BitVec 11) (s : State) : Result := raiseIllegal (encode (.niCFsdsp bits)) s

/-- C.SWSP (R213). -/
def execCSwsp (rs2 : Reg) (uimm : BitVec 6) (s : State) : Result := store .word (spAddr s uimm) (s.readReg rs2) 2 s

/-- C.FSWSP slot (R216). -/
def execNiCFswsp (bits : BitVec 11) (s : State) : Result := raiseIllegal (encode (.niCFswsp bits)) s

end Sys2Proof.Machine
end

