-- ==== Sys2Proof/Machine/System.lean ====
section
/-! DEFINITION. EBREAK, ECALL and FENCE (48_system.md). -/
namespace Sys2Proof.Machine

/-- EBREAK raises `Breakpoint` (R300). -/
def execEbreak (s : State) : Result := raise .breakpoint none s

/-- ECALL raises `EnvironmentCall` (R301). -/
def execEcall (s : State) : Result := raise .environmentCall none s

/-- FENCE: every earlier access has completed, so only `pc` moves; all fields are ignored (R302). -/
def execFence (_hi : BitVec 17) (_lo : BitVec 5) (s : State) : Result := skip 4 s

end Sys2Proof.Machine
end

