-- ==== Sys2Proof/Machine/Upper.lean ====
section
/-! DEFINITION. LUI and AUIPC (46_upper_immediate.md). -/
namespace Sys2Proof.Machine

/-- LUI (R270). -/
def execLui (rd : Reg) (imm : BitVec 20) (s : State) : Result := finish rd (immU imm) 4 s

/-- AUIPC: `pc` is this instruction's address (R271). -/
def execAuipc (rd : Reg) (imm : BitVec 20) (s : State) : Result := finish rd (s.pc + immU imm) 4 s

end Sys2Proof.Machine
end

