-- ==== Sys2Proof/Machine/Dispatch.lean ====
section
/-! DEFINITION. One arm per constructor of Instr: one direct call of the instruction's own meaning. -/
namespace Sys2Proof.Machine

def exec (i : Instr) (s : State) : Host.Outcome State Fault Refusal :=
  match i with
  | .cIllegal => Sys2Proof.Machine.execCIllegal s
  | .resCAddi4spn rd => Sys2Proof.Machine.execResCAddi4spn rd s
  | .cAddi4spn rd nzuimm => Sys2Proof.Machine.execCAddi4spn rd nzuimm s
  | .niCFld bits => Sys2Proof.Machine.execNiCFld bits s
  | .cLw rd rs1 uimm => Sys2Proof.Machine.execCLw rd rs1 uimm s
  | .niCFlw bits => Sys2Proof.Machine.execNiCFlw bits s
  | .resQ0F4 bits => Sys2Proof.Machine.execResQ0F4 bits s
  | .niCFsd bits => Sys2Proof.Machine.execNiCFsd bits s
  | .cSw rs2 rs1 uimm => Sys2Proof.Machine.execCSw rs2 rs1 uimm s
  | .unQ0F7 bits => Sys2Proof.Machine.execUnQ0F7 bits s
  | .cNop nzimm => Sys2Proof.Machine.execCNop nzimm s
  | .cAddi rd nzimm => Sys2Proof.Machine.execCAddi rd nzimm s
  | .cJal imm => Sys2Proof.Machine.execCJal imm s
  | .hintCLi imm => Sys2Proof.Machine.execHintCLi imm s
  | .cLi rd imm => Sys2Proof.Machine.execCLi rd imm s
  | .resCAddi16sp => Sys2Proof.Machine.execResCAddi16sp s
  | .cAddi16sp nzimm => Sys2Proof.Machine.execCAddi16sp nzimm s
  | .resCLui rd => Sys2Proof.Machine.execResCLui rd s
  | .hintCLui nzimm => Sys2Proof.Machine.execHintCLui nzimm s
  | .cLui rd nzimm => Sys2Proof.Machine.execCLui rd nzimm s
  | .resCSrli rd => Sys2Proof.Machine.execResCSrli rd s
  | .cSrli rd shamt => Sys2Proof.Machine.execCSrli rd shamt s
  | .nseCSrli rd shamt => Sys2Proof.Machine.execNseCSrli rd shamt s
  | .resCSrai rd => Sys2Proof.Machine.execResCSrai rd s
  | .cSrai rd shamt => Sys2Proof.Machine.execCSrai rd shamt s
  | .nseCSrai rd shamt => Sys2Proof.Machine.execNseCSrai rd shamt s
  | .cAndi rd imm => Sys2Proof.Machine.execCAndi rd imm s
  | .cSub rd rs2 => Sys2Proof.Machine.execCSub rd rs2 s
  | .cXor rd rs2 => Sys2Proof.Machine.execCXor rd rs2 s
  | .cOr rd rs2 => Sys2Proof.Machine.execCOr rd rs2 s
  | .cAnd rd rs2 => Sys2Proof.Machine.execCAnd rd rs2 s
  | .resQ1 bits => Sys2Proof.Machine.execResQ1 bits s
  | .cJ imm => Sys2Proof.Machine.execCJ imm s
  | .cBeqz rs1 imm => Sys2Proof.Machine.execCBeqz rs1 imm s
  | .cBnez rs1 imm => Sys2Proof.Machine.execCBnez rs1 imm s
  | .nseCSlli bits => Sys2Proof.Machine.execNseCSlli bits s
  | .resCSlli rd => Sys2Proof.Machine.execResCSlli rd s
  | .hintCSlli shamt => Sys2Proof.Machine.execHintCSlli shamt s
  | .cSlli rd shamt => Sys2Proof.Machine.execCSlli rd shamt s
  | .niCFldsp bits => Sys2Proof.Machine.execNiCFldsp bits s
  | .resCLwsp uimm => Sys2Proof.Machine.execResCLwsp uimm s
  | .cLwsp rd uimm => Sys2Proof.Machine.execCLwsp rd uimm s
  | .niCFlwsp bits => Sys2Proof.Machine.execNiCFlwsp bits s
  | .resCJr => Sys2Proof.Machine.execResCJr s
  | .cJr rs1 => Sys2Proof.Machine.execCJr rs1 s
  | .hintCMv rs2 => Sys2Proof.Machine.execHintCMv rs2 s
  | .cMv rd rs2 => Sys2Proof.Machine.execCMv rd rs2 s
  | .cEbreak => Sys2Proof.Machine.execCEbreak s
  | .cJalr rs1 => Sys2Proof.Machine.execCJalr rs1 s
  | .hintCAdd rs2 => Sys2Proof.Machine.execHintCAdd rs2 s
  | .cAdd rd rs2 => Sys2Proof.Machine.execCAdd rd rs2 s
  | .niCFsdsp bits => Sys2Proof.Machine.execNiCFsdsp bits s
  | .cSwsp rs2 uimm => Sys2Proof.Machine.execCSwsp rs2 uimm s
  | .niCFswsp bits => Sys2Proof.Machine.execNiCFswsp bits s
  | .add rd rs1 rs2 => Sys2Proof.Machine.execAdd rd rs1 rs2 s
  | .sub rd rs1 rs2 => Sys2Proof.Machine.execSub rd rs1 rs2 s
  | .slt rd rs1 rs2 => Sys2Proof.Machine.execSlt rd rs1 rs2 s
  | .sltu rd rs1 rs2 => Sys2Proof.Machine.execSltu rd rs1 rs2 s
  | .and rd rs1 rs2 => Sys2Proof.Machine.execAnd rd rs1 rs2 s
  | .or rd rs1 rs2 => Sys2Proof.Machine.execOr rd rs1 rs2 s
  | .xor rd rs1 rs2 => Sys2Proof.Machine.execXor rd rs1 rs2 s
  | .sll rd rs1 rs2 => Sys2Proof.Machine.execSll rd rs1 rs2 s
  | .srl rd rs1 rs2 => Sys2Proof.Machine.execSrl rd rs1 rs2 s
  | .sra rd rs1 rs2 => Sys2Proof.Machine.execSra rd rs1 rs2 s
  | .addi rd rs1 imm => Sys2Proof.Machine.execAddi rd rs1 imm s
  | .slti rd rs1 imm => Sys2Proof.Machine.execSlti rd rs1 imm s
  | .sltiu rd rs1 imm => Sys2Proof.Machine.execSltiu rd rs1 imm s
  | .andi rd rs1 imm => Sys2Proof.Machine.execAndi rd rs1 imm s
  | .ori rd rs1 imm => Sys2Proof.Machine.execOri rd rs1 imm s
  | .xori rd rs1 imm => Sys2Proof.Machine.execXori rd rs1 imm s
  | .slli rd rs1 shamt => Sys2Proof.Machine.execSlli rd rs1 shamt s
  | .srli rd rs1 shamt => Sys2Proof.Machine.execSrli rd rs1 shamt s
  | .srai rd rs1 shamt => Sys2Proof.Machine.execSrai rd rs1 shamt s
  | .lw rd rs1 imm => Sys2Proof.Machine.execLw rd rs1 imm s
  | .lh rd rs1 imm => Sys2Proof.Machine.execLh rd rs1 imm s
  | .lhu rd rs1 imm => Sys2Proof.Machine.execLhu rd rs1 imm s
  | .lb rd rs1 imm => Sys2Proof.Machine.execLb rd rs1 imm s
  | .lbu rd rs1 imm => Sys2Proof.Machine.execLbu rd rs1 imm s
  | .sw rs2 rs1 imm => Sys2Proof.Machine.execSw rs2 rs1 imm s
  | .sh rs2 rs1 imm => Sys2Proof.Machine.execSh rs2 rs1 imm s
  | .sb rs2 rs1 imm => Sys2Proof.Machine.execSb rs2 rs1 imm s
  | .lui rd imm => Sys2Proof.Machine.execLui rd imm s
  | .auipc rd imm => Sys2Proof.Machine.execAuipc rd imm s
  | .jal rd imm => Sys2Proof.Machine.execJal rd imm s
  | .jalr rd rs1 imm => Sys2Proof.Machine.execJalr rd rs1 imm s
  | .beq rs1 rs2 imm => Sys2Proof.Machine.execBeq rs1 rs2 imm s
  | .bne rs1 rs2 imm => Sys2Proof.Machine.execBne rs1 rs2 imm s
  | .blt rs1 rs2 imm => Sys2Proof.Machine.execBlt rs1 rs2 imm s
  | .bge rs1 rs2 imm => Sys2Proof.Machine.execBge rs1 rs2 imm s
  | .bltu rs1 rs2 imm => Sys2Proof.Machine.execBltu rs1 rs2 imm s
  | .bgeu rs1 rs2 imm => Sys2Proof.Machine.execBgeu rs1 rs2 imm s
  | .ebreak => Sys2Proof.Machine.execEbreak s
  | .ecall => Sys2Proof.Machine.execEcall s
  | .fence hi lo => Sys2Proof.Machine.execFence hi lo s

end Sys2Proof.Machine
end

