-- ==== Sys2Proof/Machine/Step.lean ====
section
/-! DEFINITION. One step: fetch, decode, execute, each with the exception that stops it (60_exceptions.md R315). -/
namespace Sys2Proof.Machine

/-- One step (R315): a fetch that stops first, then an illegal word, then the instruction's own effect. -/
def step (s : State) : Host.Outcome State Fault Refusal :=
  andThen s.fetch fun w =>
    match decode w with
    | .error _ => raiseIllegal w s
    | .ok i => exec i s

/-- `MEM_VALID` widened to hold one address, where it does not yet. -/
def State.withValid (s : State) (a : Word) : State :=
  if s.valid a then s else s.setMemValid (⟨a.toNat, 1⟩ :: s.params.memValid)

/-- The state with one byte given by the launch: in the launch image and in memory. -/
def State.withImageByte (s : State) (a : Word) (b : Byte) : State :=
  (s.setMem (Memory.put s.mem a.toNat b)).setImage (Memory.put s.params.image a.toNat b)

/-- Bytes given by the launch at consecutive addresses from `a` on, each in `MEM_VALID`. -/
def State.withBytes (s : State) (a : Word) : List Byte → State
  | [] => s
  | b :: bs => State.withBytes ((s.withValid a).withImageByte a b) (a + 1) bs

/-- `s` with an instruction placed where `step` fetches: its four bytes, those above `nbits` 0, at `pc` on. It stands for
the load of a program from outside the machine (R352; log 17). -/
def State.withFetchWord (s : State) (nbits w : Nat) : State := s.withBytes s.pc (tableBytes nbits w)

end Sys2Proof.Machine
end

