-- ==== Sys2Proof/Machine/Cim.lean ====
section
/-! DEFINITION. The CIM operations and the two procedures of 40_cim_and_multiply.md, as operations on State. None has an
encoding, so no arm of `exec` and no step reaches them (R131, D27). The corelet an operation acts on is an argument: how a
program selects it is not said (R122; log 16). An operation moves no `pc`: its length is not known. -/
namespace Sys2Proof.Machine

/-- Four values, one a row or one a column. -/
def vec4 {α : Type} (f : Fin 4 → α) : Vector α 4 := #v[f 0, f 1, f 2, f 3]

/-- Precision in bits, `2^code` (R120). -/
def precisionBits (p : Precision) : Nat := 2 ^ p.toNat

/-- SAR ADC cycles of one conversion (R120, R365). No step reads it: the model has no time. -/
def sarCycles (p : Precision) : Nat := 2 ^ p.toNat

/-! ### Register writes (R123) -/

/-- `RS <- v` (R27). -/
def cimWriteRs (v : BitVec 4) (s : State) : State := s.setCim { s.cim with rs := v }
/-- `WD <- v` (R28). -/
def cimWriteWd (v : Vector Byte 4) (s : State) : State := s.setCim { s.cim with wd := v }
/-- `WDS <- v` (R29). -/
def cimWriteWds (v : BitVec 4) (s : State) : State := s.setCim { s.cim with wds := v }
/-- `FS <- {WRITE, precision}`: the fields the line names (R30, C10). -/
def cimWriteFsWrite (p : Precision) (s : State) : State :=
  s.setCim { s.cim with fs := { s.cim.fs with op := .write, precision := p } }
/-- `FS <- {mode, READ}`: the fields the line names (R30, C10). -/
def cimWriteFsRead (mode : MvmMode) (s : State) : State :=
  s.setCim { s.cim with fs := { s.cim.fs with op := .read, mode := mode } }
/-- `SAM <- {result_reg, precision}` (R31). -/
def cimWriteSam (r : Reg) (p : Precision) (s : State) : State := s.setCim { s.cim with sam := ⟨r, p⟩ }
/-- `CS <- c` (R32). -/
def cimWriteCs (c : BitVec 2) (s : State) : State := s.setCim { s.cim with cs := c }

/-! ### Actions (R125, R127): each is one blocking step (R130) -/

/-- More than one row is selected. -/
def severalRows (rs : BitVec 4) : Bool := decide (1 < (List.range 4).countP fun i => rs.getLsbD i)

/-- A corelet after a WRITE action: cell `(i, c)` with `RS[i] = 1` and `WDS[c] = 1` takes `WD[c]` at the precision, every
other cell is unchanged (R125). -/
def programCorelet (k : Corelet) (rs wds : BitVec 4) (wd : Vector Byte 4) (p : Precision) : Corelet :=
  vec4 fun i => vec4 fun c => if rs.getLsbD i && wds.getLsbD c then ⟨p, wd[c]⟩ else k[i][c]

/-- The weight a cell contributes (log 13). -/
def WeightCell.weight (x : WeightCell) : Int := Config.cellWeight x.precision x.value

/-- The sum of the weights of the driven cells of column `c` (R127). -/
def columnSum (k : Corelet) (rs : BitVec 4) (c : Fin 4) : Int :=
  (if rs.getLsbD 0 then k[0][c].weight else 0) + (if rs.getLsbD 1 then k[1][c].weight else 0)
    + (if rs.getLsbD 2 then k[2][c].weight else 0) + (if rs.getLsbD 3 then k[3][c].weight else 0)

/-- `DoA` on corelet `k` (R125, R127). A WRITE with several rows selected (R125, U18) and a READ in a mode without a
procedure (R129, U19) have no meaning (log 15). -/
def doA (k : Fin 16) (s : State) : Result :=
  match s.cim.fs.op with
  | .write =>
    if severalRows s.cim.rs then .refused .cimSeveralRows
    else
      let new := programCorelet s.cim.cells[k] s.cim.rs s.cim.wds s.cim.wd s.cim.fs.precision
      .next (s.setCim { s.cim with cells := s.cim.cells.set k new })
  | .read =>
    match s.cim.fs.mode with
    | .forward => .next (s.setCim { s.cim with columns := vec4 (columnSum s.cim.cells[k] s.cim.rs) })
    | .backward => .refused .cimModeUndescribed
    | .recurrent => .refused .cimModeUndescribed

/-- `DoS`: the column outputs are captured (R33, R127). R127 gives it in forward READ mode; DESIGN CHOICE it acts the same
whatever `FS` holds (log 22), and captures the outputs of the corelet `DoA` last read (log 23). -/
def doS (s : State) : Result := .next (s.setCim { s.cim with hold := s.cim.columns })

/-- `DoR` with a given converter: the captured output of column `CS`, converted, goes to the CPU register
`SAM.result_reg` (R127). R127 gives it in forward READ mode; DESIGN CHOICE it acts the same whatever `FS` holds (log 22), and
converts what the unit's one latch holds (log 23). -/
def doRWith (adc : Precision → Int → Word) (s : State) : Result :=
  .next (s.writeReg s.cim.sam.resultReg (adc s.cim.sam.precision (s.cim.hold[s.cim.cs.toNat]'(s.cim.cs.isLt))))

/-- `DoR`: the hardware's converter is a free function (R128). -/
def doR (s : State) : Result := doRWith Config.adc s

/-! ### The procedures (R124, R126) -/

/-- `for each x in xs: f x`. -/
def forEach {α σ : Type} (f : α → σ → Host.Outcome σ Fault Refusal) : List α → σ → Host.Outcome σ Fault Refusal
  | [], s => .next s
  | x :: xs, s => andThen (f x s) (forEach f xs)

/-- `one_hot(r)` (R124). -/
def oneHot (r : Fin 4) : BitVec 4 := 1#4 <<< r.val

/-- One row of LOAD_WEIGHTS (R124). -/
def loadRow (k : Fin 16) (m : Vector (Vector Byte 4) 4) (p : Precision) (r : Fin 4) (s : State) : Result :=
  doA k (cimWriteFsWrite p (cimWriteWds 0b1111#4 (cimWriteWd m[r] (cimWriteRs (oneHot r) s))))

/-- LOAD_WEIGHTS on corelet `k` (R124). -/
def loadWeights (k : Fin 16) (m : Vector (Vector Byte 4) 4) (p : Precision) (s : State) : Result :=
  forEach (loadRow k m p) [0, 1, 2, 3] s

/-- `{input_vec[3][b], .., input_vec[0][b]}` (R126). -/
def rowBits (input : Vector Byte 4) (b : Nat) : BitVec 4 :=
  BitVec.ofBool (input[3].getLsbD b) ++ BitVec.ofBool (input[2].getLsbD b) ++ BitVec.ofBool (input[1].getLsbD b) ++
    BitVec.ofBool (input[0].getLsbD b)

/-- A state of the MVM procedure: the machine and the accumulators, which are the program's own (R25). -/
abbrev MvmState := State × Vector Word 4

/-- `CS <- c; DoR; acc[c] += result_reg << b` (R126). -/
def mvmColumn (adc : Precision → Int → Word) (r : Reg) (b : Nat) (c : Fin 4) (x : MvmState) :
    Host.Outcome MvmState Fault Refusal :=
  andThen (doRWith adc (cimWriteCs (BitVec.ofNat 2 c) x.1)) fun t =>
    .next (t, x.2.set c (x.2[c] + (t.readReg r <<< b)))

/-- One round of MVM, bit `b` of every input element (R126). -/
def mvmRound (adc : Precision → Int → Word) (k : Fin 16) (input : Vector Byte 4) (r : Reg) (b : Nat) (x : MvmState) :
    Host.Outcome MvmState Fault Refusal :=
  andThen (doA k (cimWriteFsRead .forward (cimWriteRs (rowBits input b) x.1))) fun t =>
    andThen (doS t) fun u => forEach (mvmColumn adc r b) [0, 1, 2, 3] (u, x.2)

/-- MVM on corelet `k` with a given converter, delivering through register `r` (R126). -/
def mvmWith (adc : Precision → Int → Word) (k : Fin 16) (input : Vector Byte 4) (p : Precision) (r : Reg) (s : State) :
    Host.Outcome MvmState Fault Refusal :=
  forEach (mvmRound adc k input r) (List.range (precisionBits p)) (cimWriteSam r p s, Vector.replicate 4 0)

/-- MVM with the hardware's converter (R126, R128). -/
def mvm (k : Fin 16) (input : Vector Byte 4) (p : Precision) (r : Reg) (s : State) : Host.Outcome MvmState Fault Refusal :=
  mvmWith Config.adc k input p r s

end Sys2Proof.Machine
end

