-- ==== Sys2Proof/OpcodeTable.lean ====
section
/-! DEFINITION. spec/opcode_table.json as data, in its own order (30_encoding.md R107): a second account of the encodings,
beside the decoder of Decode.lean. No step reads it: it is what the decoder is compared with. -/
namespace Sys2Proof

/-- What a row says a word does (R107). -/
inductive RowKind where
  /-- One of the 67 instructions. -/
  | instruction
  /-- Executes as a no-op (R94). -/
  | hint
  /-- The table's `reserved` and `illegal`: raises `IllegalInstruction` (R95 to R103). -/
  | illegal
  deriving DecidableEq, Repr

/-- The columns of a row that say which words are its own. -/
structure OpcodeRow (n : Nat) where
  mnemonic : String
  value : BitVec n
  mask : BitVec n
  deriving DecidableEq, Repr

/-- `w & mask = match` (R107). -/
def OpcodeRow.matches {n : Nat} (r : OpcodeRow n) (w : BitVec n) : Bool := w &&& r.mask == r.value

/-- The first matching row wins (R107). -/
def firstRow {n : Nat} (rows : List (OpcodeRow n)) (w : BitVec n) : Option (OpcodeRow n) :=
  rows.find? fun r => r.matches w

/-- Rows 1 to 18 of width 16. -/
def halfRowsA : List (OpcodeRow 16) :=
  [⟨"C.ILLEGAL", 0x0000, 0xFFFF⟩,
   ⟨"reserved__C.ADDI4SPN_nzuimm_0", 0x0000, 0xFFE3⟩,
   ⟨"C.ADDI4SPN", 0x0000, 0xE003⟩,
   ⟨"not_implemented__C.FLD", 0x2000, 0xE003⟩,
   ⟨"C.LW", 0x4000, 0xE003⟩,
   ⟨"not_implemented__C.FLW", 0x6000, 0xE003⟩,
   ⟨"reserved__Q0_funct3_100", 0x8000, 0xE003⟩,
   ⟨"not_implemented__C.FSD", 0xA000, 0xE003⟩,
   ⟨"C.SW", 0xC000, 0xE003⟩,
   ⟨"unlisted__Q0_funct3_111", 0xE000, 0xE003⟩,
   ⟨"C.NOP", 0x0001, 0xEF83⟩,
   ⟨"C.ADDI", 0x0001, 0xE803⟩,
   ⟨"C.JAL", 0x2001, 0xE003⟩,
   ⟨"hint__C.LI_rd_0", 0x4001, 0xEF83⟩,
   ⟨"C.LI", 0x4001, 0xE803⟩,
   ⟨"reserved__C.ADDI16SP_nzimm_0", 0x6101, 0xFFFF⟩,
   ⟨"C.ADDI16SP", 0x6101, 0xEF83⟩,
   ⟨"reserved__C.LUI_nzimm_0", 0x6001, 0xF07F⟩]

/-- Rows 19 to 36 of width 16. -/
def halfRowsB : List (OpcodeRow 16) :=
  [⟨"hint__C.LUI_rd_0", 0x6001, 0xEF83⟩,
   ⟨"C.LUI", 0x6001, 0xE803⟩,
   ⟨"reserved__C.SRLI_shamt_0", 0x8001, 0xFC7F⟩,
   ⟨"C.SRLI", 0x8001, 0xFC03⟩,
   ⟨"NSE__C.SRLI_nzuimm_5__1", 0x9001, 0xFC03⟩,
   ⟨"reserved__C.SRAI_shamt_0", 0x8401, 0xFC7F⟩,
   ⟨"C.SRAI", 0x8401, 0xFC03⟩,
   ⟨"NSE__C.SRAI_nzuimm_5__1", 0x9401, 0xFC03⟩,
   ⟨"C.ANDI", 0x8801, 0xEC03⟩,
   ⟨"C.SUB", 0x8C01, 0xFC63⟩,
   ⟨"C.XOR", 0x8C21, 0xFC63⟩,
   ⟨"C.OR", 0x8C41, 0xFC63⟩,
   ⟨"C.AND", 0x8C61, 0xFC63⟩,
   ⟨"reserved__Q1_100_1_11", 0x9C01, 0xFC03⟩,
   ⟨"C.J", 0xA001, 0xE003⟩,
   ⟨"C.BEQZ", 0xC001, 0xE003⟩,
   ⟨"C.BNEZ", 0xE001, 0xE003⟩,
   ⟨"NSE__C.SLLI_nzuimm_5__1", 0x1002, 0xF003⟩]

/-- Rows 37 to 54 of width 16. -/
def halfRowsC : List (OpcodeRow 16) :=
  [⟨"reserved__C.SLLI_shamt_0", 0x0002, 0xF07F⟩,
   ⟨"hint__C.SLLI_rd_0", 0x0002, 0xFF83⟩,
   ⟨"C.SLLI", 0x0002, 0xF803⟩,
   ⟨"not_implemented__C.FLDSP", 0x2002, 0xE003⟩,
   ⟨"reserved__C.LWSP_rd_0", 0x4002, 0xEF83⟩,
   ⟨"C.LWSP", 0x4002, 0xE803⟩,
   ⟨"not_implemented__C.FLWSP", 0x6002, 0xE003⟩,
   ⟨"reserved__C.JR_rs1_0", 0x8002, 0xFFFF⟩,
   ⟨"C.JR", 0x8002, 0xF87F⟩,
   ⟨"hint__C.MV_rd_0", 0x8002, 0xFFC3⟩,
   ⟨"C.MV", 0x8002, 0xF843⟩,
   ⟨"C.EBREAK", 0x9002, 0xFFFF⟩,
   ⟨"C.JALR", 0x9002, 0xF87F⟩,
   ⟨"hint__C.ADD_rd_0", 0x9002, 0xFFC3⟩,
   ⟨"C.ADD", 0x9002, 0xF843⟩,
   ⟨"not_implemented__C.FSDSP", 0xA002, 0xE003⟩,
   ⟨"C.SWSP", 0xC002, 0xE043⟩,
   ⟨"not_implemented__C.FSWSP", 0xE002, 0xE003⟩]

/-- The rows of width 16. -/
def halfRows : List (OpcodeRow 16) := halfRowsA ++ halfRowsB ++ halfRowsC

/-- Rows 1 to 18 of width 32. -/
def fullRowsA : List (OpcodeRow 32) :=
  [⟨"ADD", 0x00000033, 0xFF08787F⟩,
   ⟨"SUB", 0x40000033, 0xFF08787F⟩,
   ⟨"SLT", 0x00002033, 0xFF08787F⟩,
   ⟨"SLTU", 0x00003033, 0xFF08787F⟩,
   ⟨"AND", 0x00007033, 0xFF08787F⟩,
   ⟨"OR", 0x00006033, 0xFF08787F⟩,
   ⟨"XOR", 0x00004033, 0xFF08787F⟩,
   ⟨"SLL", 0x00001033, 0xFF08787F⟩,
   ⟨"SRL", 0x00005033, 0xFF08787F⟩,
   ⟨"SRA", 0x40005033, 0xFF08787F⟩,
   ⟨"ADDI", 0x00000013, 0x0008787F⟩,
   ⟨"SLTI", 0x00002013, 0x0008787F⟩,
   ⟨"SLTIU", 0x00003013, 0x0008787F⟩,
   ⟨"ANDI", 0x00007013, 0x0008787F⟩,
   ⟨"ORI", 0x00006013, 0x0008787F⟩,
   ⟨"XORI", 0x00004013, 0x0008787F⟩,
   ⟨"SLLI", 0x00001013, 0xFE08787F⟩,
   ⟨"SRLI", 0x00005013, 0xFE08787F⟩]

/-- Rows 19 to 36 of width 32. -/
def fullRowsB : List (OpcodeRow 32) :=
  [⟨"SRAI", 0x40005013, 0xFE08787F⟩,
   ⟨"LW", 0x00002003, 0x0008787F⟩,
   ⟨"LH", 0x00001003, 0x0008787F⟩,
   ⟨"LHU", 0x00005003, 0x0008787F⟩,
   ⟨"LB", 0x00000003, 0x0008787F⟩,
   ⟨"LBU", 0x00004003, 0x0008787F⟩,
   ⟨"SW", 0x00002023, 0x0108707F⟩,
   ⟨"SH", 0x00001023, 0x0108707F⟩,
   ⟨"SB", 0x00000023, 0x0108707F⟩,
   ⟨"LUI", 0x00000037, 0x0000087F⟩,
   ⟨"AUIPC", 0x00000017, 0x0000087F⟩,
   ⟨"JAL", 0x0000006F, 0x0000087F⟩,
   ⟨"JALR", 0x00000067, 0x0008787F⟩,
   ⟨"BEQ", 0x00000063, 0x0108707F⟩,
   ⟨"BNE", 0x00001063, 0x0108707F⟩,
   ⟨"BLT", 0x00004063, 0x0108707F⟩,
   ⟨"BGE", 0x00005063, 0x0108707F⟩,
   ⟨"BLTU", 0x00006063, 0x0108707F⟩]

/-- Rows 37 to 40 of width 32. -/
def fullRowsC : List (OpcodeRow 32) :=
  [⟨"BGEU", 0x00007063, 0x0108707F⟩,
   ⟨"EBREAK", 0x00100073, 0xFFFFFFFF⟩,
   ⟨"ECALL", 0x00000073, 0xFFFFFFFF⟩,
   ⟨"FENCE", 0x0000000F, 0x0000707F⟩]

/-- The rows of width 32. -/
def fullRows : List (OpcodeRow 32) := fullRowsA ++ fullRowsB ++ fullRowsC

/-- The mnemonic of an instruction's row. -/
def Instr.mnemonic : Instr → String
  | .cIllegal => "C.ILLEGAL"
  | .resCAddi4spn _ => "reserved__C.ADDI4SPN_nzuimm_0"
  | .cAddi4spn _ _ => "C.ADDI4SPN"
  | .niCFld _ => "not_implemented__C.FLD"
  | .cLw _ _ _ => "C.LW"
  | .niCFlw _ => "not_implemented__C.FLW"
  | .resQ0F4 _ => "reserved__Q0_funct3_100"
  | .niCFsd _ => "not_implemented__C.FSD"
  | .cSw _ _ _ => "C.SW"
  | .unQ0F7 _ => "unlisted__Q0_funct3_111"
  | .cNop _ => "C.NOP"
  | .cAddi _ _ => "C.ADDI"
  | .cJal _ => "C.JAL"
  | .hintCLi _ => "hint__C.LI_rd_0"
  | .cLi _ _ => "C.LI"
  | .resCAddi16sp => "reserved__C.ADDI16SP_nzimm_0"
  | .cAddi16sp _ => "C.ADDI16SP"
  | .resCLui _ => "reserved__C.LUI_nzimm_0"
  | .hintCLui _ => "hint__C.LUI_rd_0"
  | .cLui _ _ => "C.LUI"
  | .resCSrli _ => "reserved__C.SRLI_shamt_0"
  | .cSrli _ _ => "C.SRLI"
  | .nseCSrli _ _ => "NSE__C.SRLI_nzuimm_5__1"
  | .resCSrai _ => "reserved__C.SRAI_shamt_0"
  | .cSrai _ _ => "C.SRAI"
  | .nseCSrai _ _ => "NSE__C.SRAI_nzuimm_5__1"
  | .cAndi _ _ => "C.ANDI"
  | .cSub _ _ => "C.SUB"
  | .cXor _ _ => "C.XOR"
  | .cOr _ _ => "C.OR"
  | .cAnd _ _ => "C.AND"
  | .resQ1 _ => "reserved__Q1_100_1_11"
  | .cJ _ => "C.J"
  | .cBeqz _ _ => "C.BEQZ"
  | .cBnez _ _ => "C.BNEZ"
  | .nseCSlli _ => "NSE__C.SLLI_nzuimm_5__1"
  | .resCSlli _ => "reserved__C.SLLI_shamt_0"
  | .hintCSlli _ => "hint__C.SLLI_rd_0"
  | .cSlli _ _ => "C.SLLI"
  | .niCFldsp _ => "not_implemented__C.FLDSP"
  | .resCLwsp _ => "reserved__C.LWSP_rd_0"
  | .cLwsp _ _ => "C.LWSP"
  | .niCFlwsp _ => "not_implemented__C.FLWSP"
  | .resCJr => "reserved__C.JR_rs1_0"
  | .cJr _ => "C.JR"
  | .hintCMv _ => "hint__C.MV_rd_0"
  | .cMv _ _ => "C.MV"
  | .cEbreak => "C.EBREAK"
  | .cJalr _ => "C.JALR"
  | .hintCAdd _ => "hint__C.ADD_rd_0"
  | .cAdd _ _ => "C.ADD"
  | .niCFsdsp _ => "not_implemented__C.FSDSP"
  | .cSwsp _ _ => "C.SWSP"
  | .niCFswsp _ => "not_implemented__C.FSWSP"
  | .add _ _ _ => "ADD"
  | .sub _ _ _ => "SUB"
  | .slt _ _ _ => "SLT"
  | .sltu _ _ _ => "SLTU"
  | .and _ _ _ => "AND"
  | .or _ _ _ => "OR"
  | .xor _ _ _ => "XOR"
  | .sll _ _ _ => "SLL"
  | .srl _ _ _ => "SRL"
  | .sra _ _ _ => "SRA"
  | .addi _ _ _ => "ADDI"
  | .slti _ _ _ => "SLTI"
  | .sltiu _ _ _ => "SLTIU"
  | .andi _ _ _ => "ANDI"
  | .ori _ _ _ => "ORI"
  | .xori _ _ _ => "XORI"
  | .slli _ _ _ => "SLLI"
  | .srli _ _ _ => "SRLI"
  | .srai _ _ _ => "SRAI"
  | .lw _ _ _ => "LW"
  | .lh _ _ _ => "LH"
  | .lhu _ _ _ => "LHU"
  | .lb _ _ _ => "LB"
  | .lbu _ _ _ => "LBU"
  | .sw _ _ _ => "SW"
  | .sh _ _ _ => "SH"
  | .sb _ _ _ => "SB"
  | .lui _ _ => "LUI"
  | .auipc _ _ => "AUIPC"
  | .jal _ _ => "JAL"
  | .jalr _ _ _ => "JALR"
  | .beq _ _ _ => "BEQ"
  | .bne _ _ _ => "BNE"
  | .blt _ _ _ => "BLT"
  | .bge _ _ _ => "BGE"
  | .bltu _ _ _ => "BLTU"
  | .bgeu _ _ _ => "BGEU"
  | .ebreak => "EBREAK"
  | .ecall => "ECALL"
  | .fence _ _ => "FENCE"

/-- The kind of an instruction's row. -/
def Instr.kind : Instr → RowKind
  | .cAddi4spn _ _ | .cLw _ _ _ | .cSw _ _ _ | .cNop _ | .cAddi _ _ | .cJal _ | .cLi _ _ | .cAddi16sp _
  | .cLui _ _ | .cSrli _ _ | .cSrai _ _ | .cAndi _ _ | .cSub _ _ | .cXor _ _ | .cOr _ _ | .cAnd _ _ | .cJ _
  | .cBeqz _ _ | .cBnez _ _ | .cSlli _ _ | .cLwsp _ _ | .cJr _ | .cMv _ _ | .cEbreak | .cJalr _ | .cAdd _ _
  | .cSwsp _ _ | .add _ _ _ | .sub _ _ _ | .slt _ _ _ | .sltu _ _ _ | .and _ _ _ | .or _ _ _ | .xor _ _ _
  | .sll _ _ _ | .srl _ _ _ | .sra _ _ _ | .addi _ _ _ | .slti _ _ _ | .sltiu _ _ _ | .andi _ _ _ | .ori _ _ _
  | .xori _ _ _ | .slli _ _ _ | .srli _ _ _ | .srai _ _ _ | .lw _ _ _ | .lh _ _ _ | .lhu _ _ _ | .lb _ _ _
  | .lbu _ _ _ | .sw _ _ _ | .sh _ _ _ | .sb _ _ _ | .lui _ _ | .auipc _ _ | .jal _ _ | .jalr _ _ _
  | .beq _ _ _ | .bne _ _ _ | .blt _ _ _ | .bge _ _ _ | .bltu _ _ _ | .bgeu _ _ _ | .ebreak | .ecall
  | .fence _ _ => .instruction
  | .hintCLi _ | .hintCLui _ | .hintCSlli _ | .hintCMv _ | .hintCAdd _ => .hint
  | .cIllegal | .resCAddi4spn _ | .niCFld _ | .niCFlw _ | .resQ0F4 _ | .niCFsd _ | .unQ0F7 _ | .resCAddi16sp
  | .resCLui _ | .resCSrli _ | .nseCSrli _ _ | .resCSrai _ | .nseCSrai _ _ | .resQ1 _ | .nseCSlli _
  | .resCSlli _ | .niCFldsp _ | .resCLwsp _ | .niCFlwsp _ | .resCJr | .niCFsdsp _ | .niCFswsp _ => .illegal

end Sys2Proof
end

