-- ==== Sys2Proof/Safety.lean ====
section
/-! DEFINITION. What counts as a good state and as a good end of a run. -/
namespace Sys2Proof.Machine

/-- Every listed byte lies in `MEM_VALID` (R34). -/
def State.memInValid (s : State) : Bool := s.mem.all fun c => spansContain s.params.memValid c.1

/-- The invariant of the machine: `pc` is even (R17), memory is in canonical form and listed only where memory exists
(R34). -/
abbrev State.Inv (s : State) : Prop := s.pc.getLsbD 0 = false ∧ Memory.wf s.mem = true ∧ s.memInValid = true

/-- The constraints a launch meets (R352 and the last table of 92_eei_decisions.md): the image is a map inside `MEM_VALID`,
`CODE_REGION` lies inside the image, `RESET_PC` is even and in `CODE_REGION`. -/
def Launch.wf (l : Launch) : Bool :=
  Memory.wf l.image
    && l.image.all (fun c => spansContain l.memValid c.1)
    && l.codeRegion.all (fun sp => (List.range sp.size).all fun i => (Memory.byte? l.image (sp.base + i)).isSome)
    && !l.resetPc.getLsbD 0
    && spansContain l.codeRegion l.resetPc.toNat

/-- A run from `s` that ends as R340 lets a claim accept: after `k` completed instructions, a breakpoint at `pcEnd`, in a
state with `P`. Every other trap, and a breakpoint elsewhere, is a failure of the run. -/
def EndsAt (s : State) (k : Nat) (pcEnd : Word) (P : State → Prop) : Prop :=
  ∃ t : State, Host.Core.run Sys2Proof.core k s = .next t ∧ step t = .fault (.trapped .breakpoint pcEnd none) ∧ P t

end Sys2Proof.Machine
end

