-- ==== Sys2Proof/Certificates/Slice0/Obligations.lean ====
section
/-! DEFINITION. The statements for the provers. Values are given as numbers modulo 2^32 or bit by bit, addresses by the
functions the meanings use, words bit by bit from the encoding lines of the rules. -/

namespace Sys2Proof.Claims
open Sys2Proof.Machine

/-! ### What an outcome leaves -/

/-- The registers of `s` with `rd` holding `v`; a write to `x0` changes nothing (R12). -/
def withReg (s : State) (rd : Reg) (v : Word) (q : Reg) : Word := if q = rd ∧ rd ≠ 0 then v else s.readReg q

/-- The outcome is a next state with these registers and this `pc`; memory, the CIM unit and the parameters are those of
`s`. -/
def Completes (r : Result) (s : State) (regs : Reg → Word) (pc : Word) : Prop :=
  ∃ t, r = .next t ∧ t.pc = pc ∧ (∀ q, t.readReg q = regs q) ∧ (∀ a, t.readByte a = s.readByte a) ∧ t.mem = s.mem
    ∧ t.cim = s.cim ∧ t.params = s.params

/-- The outcome is `Trapped(cause, pc, info)` (R314). -/
def Traps (r : Result) (s : State) (cause : Cause) (info : Option Word) : Prop := r = .fault (.trapped cause s.pc info)

/-- The byte addresses of an access of `n` bytes, modulo 2^32 (R18). -/
def byteAt (addr : Word) (k : Nat) : Word := addr + BitVec.ofNat 32 k

/-- Every byte of the access is in `MEM_VALID` (R47). -/
abbrev AllValid (s : State) (n : Nat) (addr : Word) : Prop := ∀ k, k < n → s.valid (byteAt addr k) = true

/-- Every byte of the access is as the launch left it (R52; log 20). -/
abbrev Launched (s : State) (n : Nat) (addr : Word) : Prop := ∀ k, k < n → s.launched (byteAt addr k) = true

/-- No byte of the access is in `CODE_REGION` (R52). -/
abbrev OutsideCode (s : State) (n : Nat) (addr : Word) : Prop := ∀ k, k < n → s.inCode (byteAt addr k) = false

/-- The `n` bytes at `addr` as one natural number, the lowest address least significant (R42). -/
def bytesValue (s : State) (addr : Word) : Nat → Nat
  | 0 => 0
  | k + 1 => bytesValue s addr k + (s.readByte (byteAt addr k)).toNat * 256 ^ k

/-- A load of `n` bytes: misaligned first, then outside `MEM_VALID`, else the value `v` goes to `rd` (R44, R259). -/
def LoadOutcome (r : Result) (s : State) (n : Nat) (addr : Word) (rd : Reg) (v len : Word) : Prop :=
  if addr.toNat % n ≠ 0 then Traps r s .loadAddressMisaligned (some addr)
  else if AllValid s n addr then Completes r s (withReg s rd v) (s.pc + len)
  else Traps r s .loadAccessFault (some addr)

/-- A store of the low `n` bytes of `v`: misaligned first, then outside `MEM_VALID`, then in `CODE_REGION`, else exactly the
bytes `addr .. addr + n - 1` take the value's bytes (R45, R260). -/
def StoreOutcome (r : Result) (s : State) (n : Nat) (addr v len : Word) : Prop :=
  if addr.toNat % n ≠ 0 then Traps r s .storeAddressMisaligned (some addr)
  else if AllValid s n addr then
    if OutsideCode s n addr then
      ∃ t, r = .next t ∧ t.pc = s.pc + len ∧ (∀ q, t.readReg q = s.readReg q)
        ∧ (∀ k, k < n → t.readByte (byteAt addr k) = BitVec.ofNat 8 (v.toNat / 256 ^ k))
        ∧ (∀ a, (∀ k, k < n → a ≠ byteAt addr k) → t.readByte a = s.readByte a)
        ∧ t.cim = s.cim ∧ t.params = s.params
    else r = .refused (.codeRegionStore addr)
  else Traps r s .storeAccessFault (some addr)

/-- `v` is `f` of the bits of `a` and `b`, place by place. -/
def BitwiseOf (f : Bool → Bool → Bool) (a b v : Word) : Prop := ∀ k, k < 32 → v.getLsbD k = f (a.getLsbD k) (b.getLsbD k)

/-- `sext_32`: the 32-bit value of a field read as two's complement (R6). -/
def sext {n : Nat} (v : BitVec n) : Word := BitVec.ofInt 32 v.toInt

/-- A sum modulo 2^32 of a register value and a signed number (R18). -/
def plus (a : Word) (k : Int) : Word := BitVec.ofInt 32 (a.toNat + k)

/-- `bool32` (R6). -/
def oneIf (p : Prop) [Decidable p] : Word := if p then 1 else 0

/-- `sll`, `srl` and `sra` as arithmetic: times, floor division, and floor division of the signed value by `2^k` (R6). -/
def shiftedLeft (a : Word) (k : Nat) : Word := BitVec.ofNat 32 (a.toNat * 2 ^ k)
/-- `srl` (R6). -/
def shiftedRight (a : Word) (k : Nat) : Word := BitVec.ofNat 32 (a.toNat / 2 ^ k)
/-- `sra` (R6). -/
def shiftedRightSigned (a : Word) (k : Nat) : Word := BitVec.ofInt 32 (a.toInt / 2 ^ k)

/-! ### Words, from the formats of R72 and R86 -/

/-- A full register field: top bit 0 (R97). -/
def r5 (r : Reg) : BitVec 5 := 0b0#1 ++ r

/-- Format R. -/
def wordR (f7 : BitVec 7) (rs2 rs1 : Reg) (f3 : BitVec 3) (rd : Reg) (op : BitVec 7) : InstWord :=
  .full (f7 ++ r5 rs2 ++ r5 rs1 ++ f3 ++ r5 rd ++ op)

/-- Format I. -/
def wordI (imm : BitVec 12) (rs1 : Reg) (f3 : BitVec 3) (rd : Reg) (op : BitVec 7) : InstWord :=
  .full (imm ++ r5 rs1 ++ f3 ++ r5 rd ++ op)

/-- Format I with a shift amount in `inst[24:20]`. -/
def wordShift (f7 : BitVec 7) (shamt : BitVec 5) (rs1 : Reg) (f3 : BitVec 3) (rd : Reg) (op : BitVec 7) : InstWord :=
  .full (f7 ++ shamt ++ r5 rs1 ++ f3 ++ r5 rd ++ op)

/-- Format S: `imm[11:5]` and `imm[4:0]`. -/
def wordS (imm : BitVec 12) (rs2 rs1 : Reg) (f3 : BitVec 3) (op : BitVec 7) : InstWord :=
  .full (imm.extractLsb' 5 7 ++ r5 rs2 ++ r5 rs1 ++ f3 ++ imm.extractLsb' 0 5 ++ op)

/-- Format B of a 13-bit offset: `imm[12|10:5]` and `imm[4:1|11]`. -/
def wordB (off : BitVec 13) (rs2 rs1 : Reg) (f3 : BitVec 3) (op : BitVec 7) : InstWord :=
  .full (off.extractLsb' 12 1 ++ off.extractLsb' 5 6 ++ r5 rs2 ++ r5 rs1 ++ f3 ++ off.extractLsb' 1 4
    ++ off.extractLsb' 11 1 ++ op)

/-- Format J of a 21-bit offset: `imm[20|10:1|11|19:12]`. -/
def wordJ (off : BitVec 21) (rd : Reg) (op : BitVec 7) : InstWord :=
  .full (off.extractLsb' 20 1 ++ off.extractLsb' 1 10 ++ off.extractLsb' 11 1 ++ off.extractLsb' 12 8 ++ r5 rd ++ op)

/-- Formats CI and CR: `inst[15:13]`, `inst[12]`, `inst[11:7]`, `inst[6:2]`, `inst[1:0]`. -/
def wordCI (f3 : BitVec 3) (b12 : BitVec 1) (b11 b6 : BitVec 5) (op : BitVec 2) : InstWord :=
  .half (f3 ++ b12 ++ b11 ++ b6 ++ op)

/-- Format CB of the shifts and C.ANDI, and format CA: group `100` of Quadrant 1. -/
def wordCB (b12 : BitVec 1) (b11 : BitVec 2) (rd : CReg) (b6 : BitVec 5) : InstWord :=
  .half (0b100#3 ++ b12 ++ b11 ++ rd ++ b6 ++ 0b01#2)

/-- Format CJ of a 12-bit offset: `imm[11|4|9:8|10|6|7|3:1|5]` (R80). -/
def wordCJ (f3 : BitVec 3) (off : BitVec 12) : InstWord :=
  .half (f3 ++ off.extractLsb' 11 1 ++ off.extractLsb' 4 1 ++ off.extractLsb' 8 2 ++ off.extractLsb' 10 1
    ++ off.extractLsb' 6 1 ++ off.extractLsb' 7 1 ++ off.extractLsb' 1 3 ++ off.extractLsb' 5 1 ++ 0b01#2)

/-- The branches of Quadrant 1, of a 9-bit offset: `imm[8|4:3]`, `rs1'`, `imm[7:6|2:1|5]` (R81). -/
def wordCBranch (f3 : BitVec 3) (rs1 : CReg) (off : BitVec 9) : InstWord :=
  .half (f3 ++ off.extractLsb' 8 1 ++ off.extractLsb' 3 2 ++ rs1 ++ off.extractLsb' 6 2 ++ off.extractLsb' 1 2
    ++ off.extractLsb' 5 1 ++ 0b01#2)

/-- Formats CL and CS of a 7-bit offset: `uimm[5:3]`, `rs1'`, `uimm[2|6]`, `rd'` or `rs2'` (R79). -/
def wordCL (f3 : BitVec 3) (off : BitVec 7) (rs1 r : CReg) : InstWord :=
  .half (f3 ++ off.extractLsb' 3 3 ++ rs1 ++ off.extractLsb' 2 1 ++ off.extractLsb' 6 1 ++ r ++ 0b00#2)

/-- A reserved or illegal compressed word: it decodes to its row, and that row raises `IllegalInstruction` with the word,
zero-extended. -/
def ReservedWord (w : BitVec 16) (i : Instr) : Prop :=
  decode (.half w) = .ok i ∧ ∀ s, Traps (exec i s) s .illegalInstruction (some (BitVec.ofNat 32 w.toNat))

/-! ### Which instructions do what -/

/-- The data address and width of a load (R41, R43, R258). -/
def loadAccess (s : State) : Instr → Option (Nat × Word)
  | .lw _ rs1 imm => some (4, effAddr s rs1 imm)
  | .lh _ rs1 imm => some (2, effAddr s rs1 imm)
  | .lhu _ rs1 imm => some (2, effAddr s rs1 imm)
  | .lb _ rs1 imm => some (1, effAddr s rs1 imm)
  | .lbu _ rs1 imm => some (1, effAddr s rs1 imm)
  | .cLw _ rs1 uimm => some (4, clAddr s rs1 uimm)
  | .cLwsp _ uimm => some (4, spAddr s uimm)
  | _ => none

/-- The data address and width of a store (R41, R43, R258). -/
def storeAccess (s : State) : Instr → Option (Nat × Word)
  | .sw _ rs1 imm => some (4, effAddr s rs1 imm)
  | .sh _ rs1 imm => some (2, effAddr s rs1 imm)
  | .sb _ rs1 imm => some (1, effAddr s rs1 imm)
  | .cSw _ rs1 uimm => some (4, clAddr s rs1 uimm)
  | .cSwsp _ uimm => some (4, spAddr s uimm)
  | _ => none

/-- The register an instruction writes (R13 and the operation of each rule). -/
def destination : Instr → Option Reg
  | .cAddi4spn rd _ | .cLw rd _ _ | .cSrli rd _ | .cSrai rd _ | .cAndi rd _ => some (creg rd)
  | .cSub rd _ | .cXor rd _ | .cOr rd _ | .cAnd rd _ => some (creg rd)
  | .cAddi rd _ | .cLi rd _ | .cLui rd _ | .cSlli rd _ | .cLwsp rd _ | .cMv rd _ | .cAdd rd _ => some rd
  | .cJal _ | .cJalr _ => some 1
  | .cAddi16sp _ => some 2
  | .add rd _ _ | .sub rd _ _ | .slt rd _ _ | .sltu rd _ _ | .and rd _ _ | .or rd _ _ | .xor rd _ _ => some rd
  | .sll rd _ _ | .srl rd _ _ | .sra rd _ _ | .slli rd _ _ | .srli rd _ _ | .srai rd _ _ => some rd
  | .addi rd _ _ | .slti rd _ _ | .sltiu rd _ _ | .andi rd _ _ | .ori rd _ _ | .xori rd _ _ => some rd
  | .lw rd _ _ | .lh rd _ _ | .lhu rd _ _ | .lb rd _ _ | .lbu rd _ _ => some rd
  | .lui rd _ | .auipc rd _ | .jal rd _ | .jalr rd _ _ => some rd
  | _ => none

/-- The instruction writes `pc` itself (R16): the jumps and the branches. -/
def writesPc : Instr → Bool
  | .cJal _ | .cJ _ | .cBeqz _ _ | .cBnez _ _ | .cJr _ | .cJalr _ | .jal _ _ | .jalr _ _ _ => true
  | .beq _ _ _ | .bne _ _ _ | .blt _ _ _ | .bge _ _ _ | .bltu _ _ _ | .bgeu _ _ _ => true
  | _ => false

/-- The exception of an instruction word, by the order of R315, if it raises one. -/
def trapOfWord (s : State) (w : InstWord) : Option (Cause × Option Word) :=
  match decode w with
  | .error _ => some (.illegalInstruction, some w.info)
  | .ok i =>
    if i.kind = .illegal then some (.illegalInstruction, some w.info)
    else if i = .ebreak ∨ i = .cEbreak then some (.breakpoint, none)
    else if i = .ecall then some (.environmentCall, none)
    else
      match loadAccess s i, storeAccess s i with
      | some (n, a), _ =>
        if a.toNat % n ≠ 0 then some (.loadAddressMisaligned, some a)
        else if AllValid s n a then none else some (.loadAccessFault, some a)
      | none, some (n, a) =>
        if a.toNat % n ≠ 0 then some (.storeAddressMisaligned, some a)
        else if AllValid s n a then none else some (.storeAccessFault, some a)
      | none, none => none

/-- The exception of a step, by the order of R315, if it raises one. -/
def trapOfStep (s : State) : Option (Cause × Option Word) :=
  match s.fetch with
  | .fault _ => some (.instructionAccessFault, some s.pc)
  | .refused _ => none
  | .next w => trapOfWord s w

/-- The refusal of a step, if it is refused: a fetch of a changed byte, or a store into `CODE_REGION` (R45, R52). -/
def refusalOfStep (s : State) : Option Refusal :=
  match s.fetch with
  | .fault _ => none
  | .refused _ => some (.selfModifiedCode s.pc)
  | .next w =>
    match decode w with
    | .error _ => none
    | .ok i =>
      match storeAccess s i with
      | some (n, a) =>
        if a.toNat % n = 0 ∧ AllValid s n a ∧ ¬ OutsideCode s n a then some (.codeRegionStore a) else none
      | none => none

/-- A register field of the word names `x16` to `x31` (R97), by the formats of R72 and R86. -/
def namesHighRegister : InstWord → Bool
  | .half w =>
    let f3 := w.extractLsb' 13 3
    if w.extractLsb' 0 2 = 0b01#2 then
      (f3 == 0b000#3 || f3 == 0b010#3 || f3 == 0b011#3) && w.getLsbD 11
    else if w.extractLsb' 0 2 = 0b10#2 then
      (f3 == 0b000#3 || f3 == 0b010#3) && w.getLsbD 11
        || f3 == 0b100#3 && (w.getLsbD 11 || w.getLsbD 6)
        || f3 == 0b110#3 && w.getLsbD 6
    else false
  | .full w =>
    let op := w.extractLsb' 0 7
    (op == 0b0110011#7 && (w.getLsbD 11 || w.getLsbD 19 || w.getLsbD 24))
      || ((op == 0b0010011#7 || op == 0b0000011#7 || op == 0b1100111#7) && (w.getLsbD 11 || w.getLsbD 19))
      || ((op == 0b0100011#7 || op == 0b1100011#7) && (w.getLsbD 19 || w.getLsbD 24))
      || ((op == 0b0110111#7 || op == 0b0010111#7 || op == 0b1101111#7) && w.getLsbD 11)

/-! ### The CIM unit -/

/-- The CPU's part of the state: `pc`, registers, memory, parameters. -/
def SameCpu (t s : State) : Prop :=
  t.pc = s.pc ∧ (∀ q, t.readReg q = s.readReg q) ∧ t.mem = s.mem ∧ t.params = s.params

/-- The registers of the CIM unit, without its cells, column outputs and sample-and-hold. -/
def SameCimRegisters (c d : CimState) : Prop :=
  c.rs = d.rs ∧ c.wd = d.wd ∧ c.wds = d.wds ∧ c.fs = d.fs ∧ c.sam = d.sam ∧ c.cs = d.cs

/-- An exact converter: the captured value modulo 2^32 (R128, "if the conversion were exact"). -/
def exactAdc (_p : Precision) (x : Int) : Word := BitVec.ofInt 32 x

end Sys2Proof.Claims

open Sys2Proof Sys2Proof.Machine Sys2Proof.Claims

/-! ### Decoding -/

/-- Decode and encode agree, on every well-formed instruction (30_encoding.md). -/
def Obligations.DecodeOfEncode : Prop := ∀ i : Instr, i.WellFormed = true → decode (encode i) = .ok i

/-- A decoded instruction is well-formed and has that very word: no two words decode to one instruction. -/
def Obligations.EncodeOfDecode : Prop := ∀ (w : InstWord) (i : Instr), decode w = .ok i → encode i = w ∧ i.WellFormed = true

/-- The decoder, written from R89 to R104, agrees on every word with the first matching row of the opcode table (R107). -/
def Obligations.DecoderAgreesWithOpcodeTable : Prop :=
  (∀ w : BitVec 16, (decode (.half w)).toOption.map Instr.mnemonic = (firstRow halfRows w).map OpcodeRow.mnemonic)
    ∧ ∀ w : BitVec 32, (decode (.full w)).toOption.map Instr.mnemonic = (firstRow fullRows w).map OpcodeRow.mnemonic

/-- A few words of the spec's examples decode to the instructions they stand for: a sanity statement. -/
def Obligations.ExampleWordsDecode : Prop :=
  decode (.half 0x0808) = .ok (.cAddi4spn 2 4) ∧ decode (.half 0x4588) = .ok (.cLw 2 3 2)
    ∧ decode (.half 0x157D) = .ok (.cAddi 10 0b111111) ∧ decode (.half 0x7139) = .ok (.cAddi16sp 0b111100)
    ∧ decode (.half 0xFD75) = .ok (.cBnez 2 0b11111110) ∧ decode (.half 0xDFAA) = .ok (.cSwsp 10 0b111111)
    ∧ decode (.full 0x40C58533) = .ok (.sub 10 11 12) ∧ decode (.full 0xFE112E23) = .ok (.sw 1 2 0xFFC)
    ∧ decode (.full 0xFFDFF06F) = .ok (.jal 0 0xFFFFE) ∧ decode (.full 0xFEB51EE3) = .ok (.bne 10 11 0xFFE)
    ∧ decode (.full 0x4045D513) = .ok (.srai 10 11 4) ∧ decode (.full 0x01000597) = .ok (.auipc 11 0x1000)

/-- R97: a word with a register field of 16 or more raises `IllegalInstruction(inst)`. -/
def Obligations.HighRegisterFieldIsIllegal : Prop :=
  ∀ (s : State) (w : InstWord), s.fetch = .next w → namesHighRegister w = true →
    Traps (step s) s .illegalInstruction (some w.info)

/-- R96: a fetched word that is neither one of the 67 instructions nor a hint raises `IllegalInstruction(inst)`. -/
def Obligations.WordsOutsideTheSetAreIllegal : Prop :=
  ∀ (s : State) (w : InstWord), s.fetch = .next w →
    (∀ i, decode w = .ok i → i.kind ≠ .instruction ∧ i.kind ≠ .hint) →
    Traps (step s) s .illegalInstruction (some w.info)

/-- R241, R303: the words of the four opcodes that are no instruction raise `IllegalInstruction(inst)`. -/
def Obligations.UnlistedFunctionCodesAreIllegal : Prop :=
  ∀ (s : State) (w : BitVec 32), s.fetch = .next (.full w) →
    let op := w.extractLsb' 0 7
    let f3 := w.extractLsb' 12 3
    let f7 := w.extractLsb' 25 7
    (op = 0b0110011#7 → f7 ≠ 0b0000000#7 → ¬ (f7 = 0b0100000#7 ∧ (f3 = 0b000#3 ∨ f3 = 0b101#3)) →
      Traps (step s) s .illegalInstruction (some w))
    ∧ (op = 0b0010011#7 → (f3 = 0b001#3 ∧ f7 ≠ 0b0000000#7 ∨ f3 = 0b101#3 ∧ f7 ≠ 0b0000000#7 ∧ f7 ≠ 0b0100000#7) →
      Traps (step s) s .illegalInstruction (some w))
    ∧ (op = 0b1110011#7 → w ≠ 0x00000073#32 → w ≠ 0x00100073#32 → Traps (step s) s .illegalInstruction (some w))
    ∧ (op = 0b0001111#7 → f3 ≠ 0b000#3 → Traps (step s) s .illegalInstruction (some w))

/-- R150, R151, R155: the illegal word, the reserved C.ADDI4SPN and the five empty slots of Quadrant 0. -/
def Obligations.Quadrant0ReservedWordsTrap : Prop :=
  ReservedWord 0x0000#16 .cIllegal
    ∧ (∀ rd : CReg, rd ≠ 0 → ReservedWord (0b000#3 ++ 0b00000000#8 ++ rd ++ 0b00#2) (.resCAddi4spn rd))
    ∧ ∀ bits : BitVec 11,
      ReservedWord (0b001#3 ++ bits ++ 0b00#2) (.niCFld bits) ∧ ReservedWord (0b011#3 ++ bits ++ 0b00#2) (.niCFlw bits)
        ∧ ReservedWord (0b100#3 ++ bits ++ 0b00#2) (.resQ0F4 bits) ∧ ReservedWord (0b101#3 ++ bits ++ 0b00#2) (.niCFsd bits)
        ∧ ReservedWord (0b111#3 ++ bits ++ 0b00#2) (.unQ0F7 bits)

/-- R176, R178, R182, R188: the reserved words of Quadrant 1. -/
def Obligations.Quadrant1ReservedWordsTrap : Prop :=
  ReservedWord 0x6101#16 .resCAddi16sp
    ∧ (∀ rd : BitVec 5, rd ≠ 2 → ReservedWord (0b011#3 ++ 0b0#1 ++ rd ++ 0b00000#5 ++ 0b01#2) (.resCLui rd))
    ∧ (∀ (rd : CReg) (shamt : BitVec 5),
      ReservedWord (0b100#3 ++ 0b1#1 ++ 0b00#2 ++ rd ++ shamt ++ 0b01#2) (.nseCSrli rd shamt)
        ∧ ReservedWord (0b100#3 ++ 0b1#1 ++ 0b01#2 ++ rd ++ shamt ++ 0b01#2) (.nseCSrai rd shamt)
        ∧ ReservedWord (0b100#3 ++ 0b0#1 ++ 0b00#2 ++ rd ++ 0b00000#5 ++ 0b01#2) (.resCSrli rd)
        ∧ ReservedWord (0b100#3 ++ 0b0#1 ++ 0b01#2 ++ rd ++ 0b00000#5 ++ 0b01#2) (.resCSrai rd))
    ∧ ∀ bits : BitVec 8, ReservedWord (0b100111#6 ++ bits ++ 0b01#2) (.resQ1 bits)

/-- R202, R204, R206, R216: the reserved words and the empty slots of Quadrant 2. -/
def Obligations.Quadrant2ReservedWordsTrap : Prop :=
  (∀ bits : BitVec 10, ReservedWord (0b0001#4 ++ bits ++ 0b10#2) (.nseCSlli bits))
    ∧ (∀ rd : BitVec 5, ReservedWord (0b0000#4 ++ rd ++ 0b00000#5 ++ 0b10#2) (.resCSlli rd))
    ∧ (∀ off : BitVec 6,
      ReservedWord (0b010#3 ++ off.extractLsb' 3 1 ++ 0b00000#5 ++ off.extractLsb' 0 3 ++ off.extractLsb' 4 2 ++ 0b10#2)
        (.resCLwsp off))
    ∧ ReservedWord 0x8002#16 .resCJr
    ∧ ∀ bits : BitVec 11,
      ReservedWord (0b001#3 ++ bits ++ 0b10#2) (.niCFldsp bits) ∧ ReservedWord (0b011#3 ++ bits ++ 0b10#2) (.niCFlwsp bits)
        ∧ ReservedWord (0b101#3 ++ bits ++ 0b10#2) (.niCFsdsp bits)
        ∧ ReservedWord (0b111#3 ++ bits ++ 0b10#2) (.niCFswsp bits)

/-! ### A step -/

/-- When the bytes at `pc` are those of a word that decodes to `i`, valid and as launched (R52; log 20), the step is `exec` of
`i` at that state: nothing is added around it (R50, R71). -/
def Obligations.StepRunsTheDecodedInstruction : Prop :=
  ∀ (s : State) (w : InstWord) (i : Instr), decode w = .ok i →
    (∀ k, (h : k < w.bytes.length) → s.valid (byteAt s.pc k) = true ∧ s.launched (byteAt s.pc k) = true
      ∧ s.readByte (byteAt s.pc k) = w.bytes[k]) →
    step s = exec i s

/-- R50, R51: at an even `pc`, fetch reads one parcel, or two where the first ends in `11`; a parcel outside `MEM_VALID`
faults with the instruction's own `pc`. The bytes read are as launched (a changed one has no meaning as code: log 20). -/
def Obligations.FetchReadsParcels : Prop :=
  ∀ s : State, s.pc.getLsbD 0 = false →
    let p0 : BitVec 16 := s.readByte (byteAt s.pc 1) ++ s.readByte s.pc
    let p1 : BitVec 16 := s.readByte (byteAt s.pc 3) ++ s.readByte (byteAt s.pc 2)
    if AllValid s 2 s.pc then
      Launched s 2 s.pc →
        if p0.toNat % 4 ≠ 3 then s.fetch = .next (.half p0)
        else if AllValid s 4 s.pc then Launched s 4 s.pc → s.fetch = .next (.full (p1 ++ p0))
        else Traps (step s) s .instructionAccessFault (some s.pc)
    else Traps (step s) s .instructionAccessFault (some s.pc)

/-- The instruction placed by `withFetchWord` is the one the very next step runs, and placing it changes nothing but memory,
the launch image and `MEM_VALID` (the model's own; log 17). -/
def Obligations.PlacedWordIsRunNext : Prop :=
  ∀ (s : State) (w : InstWord) (i : Instr), decode w = .ok i →
    let t := s.withFetchWord (8 * w.length) w.info.toNat
    step t = exec i t ∧ t.pc = s.pc ∧ t.regs = s.regs ∧ t.cim = s.cim ∧ t.params.codeRegion = s.params.codeRegion
      ∧ t.params.sltiuImmExt = s.params.sltiuImmExt

/-- R310, R314, R315: a step traps exactly when one of the eight exceptions is due, with the cause of highest priority, the
instruction's own `pc` and the listed info; it is refused exactly for a store into `CODE_REGION` (R45, R52) and for a fetch of
a byte changed since the launch: the form of that refusal is the model's (R52; log 20). -/
def Obligations.StopsAreExactlyTheListedOnes : Prop :=
  ∀ s : State,
    (∀ f, step s = .fault f ↔ ∃ cause info, trapOfStep s = some (cause, info) ∧ f = .trapped cause s.pc info)
      ∧ ∀ r, step s = .refused r ↔ refusalOfStep s = some r

/-- R16: an instruction that does not write `pc` ends at `pc + 2` if it is compressed and `pc + 4` otherwise. -/
def Obligations.AdvanceByInstructionLength : Prop :=
  ∀ (w : InstWord) (i : Instr) (s t : State), decode w = .ok i → writesPc i = false → exec i s = .next t →
    t.pc = match w with
      | .half _ => s.pc + 2
      | .full _ => s.pc + 4

/-- R13: an instruction changes no register but its destination. -/
def Obligations.OnlyTheDestinationChanges : Prop :=
  ∀ (i : Instr) (s t : State), exec i s = .next t → ∀ q, destination i ≠ some q → t.readReg q = s.readReg q

/-- R41: an instruction changes no byte of memory but those of its store, at the address its meaning computes. -/
def Obligations.OnlyStoredBytesChange : Prop :=
  ∀ (i : Instr) (s t : State), exec i s = .next t → ∀ a : Word,
    (∀ n addr, storeAccess s i = some (n, addr) → ∀ k, k < n → a ≠ byteAt addr k) → t.readByte a = s.readByte a

/-! ### Invariants -/

/-- Every step keeps the invariant: `pc` even (R17), memory in canonical form and inside `MEM_VALID` (R34). -/
def Obligations.StepKeepsInvariant : Prop := ∀ s t : State, s.Inv → step s = .next t → t.Inv

/-- The machine right after reset meets the invariant: its values of `pc` and `MEM_VALID` are the model's (log 3, log 5). -/
def Obligations.ResetMeetsInvariant : Prop := State.reset.Inv

/-- Every launch that meets the constraints of R352 meets the invariant. -/
def Obligations.LaunchMeetsInvariant : Prop := ∀ l : Launch, l.wf = true → (State.launch l).Inv

/-- R52: over any number of steps no byte of `CODE_REGION` changes, so an instruction inside it is fetched as at the start;
and a store that reaches it is refused. -/
def Obligations.CodeRegionNeverChanges : Prop :=
  (∀ (n : Nat) (s t : State), Host.Core.run Sys2Proof.core n s = .next t →
    (∀ a, s.inCode a = true → t.readByte a = s.readByte a)
      ∧ ((∀ k, k < 4 → s.inCode (byteAt t.pc k) = true) → t.fetch = (s.setPc t.pc).fetch))
    ∧ ∀ (i : Instr) (s : State) (n : Nat) (addr : Word), storeAccess s i = some (n, addr) → addr.toNat % n = 0 →
      AllValid s n addr → ¬ OutsideCode s n addr → exec i s = .refused (.codeRegionStore addr)

/-- R131 (b) and R4: over any number of steps the CIM unit and the parameters of the run stay as they are. -/
def Obligations.CimUnitAndParametersAreInert : Prop :=
  ∀ (n : Nat) (s t : State), Host.Core.run Sys2Proof.core n s = .next t → t.cim = s.cim ∧ t.params = s.params

/-- R19, R352: what a launch leaves: `x0` is 0, `pc` is `RESET_PC`, the other registers, the bytes of the image, the CIM
unit and the OPEN parameters are those given, and every byte is as launched. -/
def Obligations.LaunchState : Prop :=
  ∀ l : Launch,
    (State.launch l).readReg 0 = 0 ∧ (State.launch l).pc = l.resetPc
      ∧ (∀ k, (h : k < 15) → (State.launch l).readReg (BitVec.ofNat 4 (k + 1)) = l.regs[k])
      ∧ (∀ (a : Word) (b : Byte), Memory.byte? l.image a.toNat = some b → (State.launch l).readByte a = b)
      ∧ (∀ a : Word, (State.launch l).valid a = spansContain l.memValid a.toNat)
      ∧ (∀ a : Word, (State.launch l).inCode a = spansContain l.codeRegion a.toNat)
      ∧ (State.launch l).cim = l.cim ∧ (State.launch l).params.sltiuImmExt = l.sltiuImmExt
      ∧ (State.launch l).params.image = l.image ∧ ∀ a : Word, (State.launch l).launched a = true

/-! ### Registers and memory -/

/-- R12: `x0` reads as 0 and a write to it changes nothing; and a register reads back what is written to it while the others
stay. -/
def Obligations.RegisterZeroAndReadAfterWrite : Prop :=
  ∀ (s : State) (v : Word),
    s.readReg 0 = 0 ∧ s.writeReg 0 v = s
      ∧ ∀ r q : Reg, r ≠ 0 → (s.writeReg r v).readReg q = if q = r then v else s.readReg q

/-- R44: `MemRead` by its own pseudocode: alignment, then validity, then the bytes, lowest address in bits 7:0. -/
def Obligations.MemReadByItsPseudocode : Prop :=
  ∀ (s : State) (n : Width) (addr : Word),
    if addr.toNat % n.bytes ≠ 0 then s.memRead n addr = .error .loadAddressMisaligned
    else if AllValid s n.bytes addr then
      s.memRead n addr = .ok (BitVec.ofNat (8 * n.bytes) (bytesValue s addr n.bytes))
    else s.memRead n addr = .error .loadAccessFault

/-- R45: `MemWrite` by its own pseudocode: alignment, validity, `CODE_REGION`, then exactly the bytes of the access. -/
def Obligations.MemWriteByItsPseudocode : Prop :=
  ∀ (s : State) (n : Width) (addr : Word) (v : n.Value),
    if addr.toNat % n.bytes ≠ 0 then Traps (s.memWrite n addr v) s .storeAddressMisaligned (some addr)
    else if AllValid s n.bytes addr then
      if OutsideCode s n.bytes addr then
        ∃ t, s.memWrite n addr v = .next t
          ∧ (∀ k, k < n.bytes → t.readByte (byteAt addr k) = BitVec.ofNat 8 (v.toNat / 256 ^ k))
          ∧ (∀ a, (∀ k, k < n.bytes → a ≠ byteAt addr k) → t.readByte a = s.readByte a)
          ∧ t.pc = s.pc ∧ t.regs = s.regs ∧ t.cim = s.cim ∧ t.params = s.params
      else s.memWrite n addr v = .refused (.codeRegionStore addr)
    else Traps (s.memWrite n addr v) s .storeAccessFault (some addr)

/-- R42: after a word is written, each narrower access inside it sees the bytes of its place, the lowest first. -/
def Obligations.MixedWidthAccessSeesLittleEndianBytes : Prop :=
  ∀ (s t : State) (a v : Word), s.memWrite .word a v = .next t →
    t.memRead .byte a = .ok (BitVec.ofNat 8 v.toNat)
      ∧ t.memRead .byte (a + 1) = .ok (BitVec.ofNat 8 (v.toNat / 2 ^ 8))
      ∧ t.memRead .byte (a + 2) = .ok (BitVec.ofNat 8 (v.toNat / 2 ^ 16))
      ∧ t.memRead .byte (a + 3) = .ok (BitVec.ofNat 8 (v.toNat / 2 ^ 24))
      ∧ t.memRead .half a = .ok (BitVec.ofNat 16 v.toNat)
      ∧ t.memRead .half (a + 2) = .ok (BitVec.ofNat 16 (v.toNat / 2 ^ 16))
      ∧ t.memRead .word a = .ok v

/-- R55.2: a load after a store reads what was stored where the two are the same access, and what was there before where
they share no byte. -/
def Obligations.LoadSeesTheMostRecentStore : Prop :=
  ∀ (s t : State) (n : Width) (a : Word) (v : n.Value), s.memWrite n a v = .next t →
    t.memRead n a = .ok v
      ∧ ∀ (m : Width) (b : Word), (∀ j k, j < n.bytes → k < m.bytes → byteAt a j ≠ byteAt b k) →
        t.memRead m b = s.memRead m b

/-! ### 32-bit arithmetic and logic (44_alu.md) -/

/-- R220, R221, R230: ADD, SUB and ADDI, modulo 2^32. -/
def Obligations.AddSubtractResults : Prop :=
  ∀ (rd rs1 rs2 : Reg) (imm : BitVec 12) (s : State),
    let a := s.readReg rs1
    let b := s.readReg rs2
    (decode (wordR 0b0000000 rs2 rs1 0b000 rd 0b0110011) = .ok (.add rd rs1 rs2)
      ∧ Completes (exec (.add rd rs1 rs2) s) s (withReg s rd (BitVec.ofNat 32 (a.toNat + b.toNat))) (s.pc + 4))
    ∧ (decode (wordR 0b0100000 rs2 rs1 0b000 rd 0b0110011) = .ok (.sub rd rs1 rs2)
      ∧ Completes (exec (.sub rd rs1 rs2) s) s (withReg s rd (BitVec.ofInt 32 (a.toNat - b.toNat : Int))) (s.pc + 4))
    ∧ (decode (wordI imm rs1 0b000 rd 0b0010011) = .ok (.addi rd rs1 imm)
      ∧ Completes (exec (.addi rd rs1 imm) s) s (withReg s rd (plus a imm.toInt)) (s.pc + 4))

/-- R224, R225, R226, R233, R234, R235: AND, OR, XOR and their immediate forms, bit by bit; the immediate is
sign-extended. -/
def Obligations.LogicalResults : Prop :=
  ∀ (rd rs1 rs2 : Reg) (imm : BitVec 12) (s : State),
    let a := s.readReg rs1
    let b := s.readReg rs2
    (decode (wordR 0b0000000 rs2 rs1 0b111 rd 0b0110011) = .ok (.and rd rs1 rs2)
      ∧ ∃ v, BitwiseOf and a b v ∧ Completes (exec (.and rd rs1 rs2) s) s (withReg s rd v) (s.pc + 4))
    ∧ (decode (wordR 0b0000000 rs2 rs1 0b110 rd 0b0110011) = .ok (.or rd rs1 rs2)
      ∧ ∃ v, BitwiseOf or a b v ∧ Completes (exec (.or rd rs1 rs2) s) s (withReg s rd v) (s.pc + 4))
    ∧ (decode (wordR 0b0000000 rs2 rs1 0b100 rd 0b0110011) = .ok (.xor rd rs1 rs2)
      ∧ ∃ v, BitwiseOf xor a b v ∧ Completes (exec (.xor rd rs1 rs2) s) s (withReg s rd v) (s.pc + 4))
    ∧ (decode (wordI imm rs1 0b111 rd 0b0010011) = .ok (.andi rd rs1 imm)
      ∧ ∃ v, BitwiseOf and a (sext imm) v ∧ Completes (exec (.andi rd rs1 imm) s) s (withReg s rd v) (s.pc + 4))
    ∧ (decode (wordI imm rs1 0b110 rd 0b0010011) = .ok (.ori rd rs1 imm)
      ∧ ∃ v, BitwiseOf or a (sext imm) v ∧ Completes (exec (.ori rd rs1 imm) s) s (withReg s rd v) (s.pc + 4))
    ∧ (decode (wordI imm rs1 0b100 rd 0b0010011) = .ok (.xori rd rs1 imm)
      ∧ ∃ v, BitwiseOf xor a (sext imm) v ∧ Completes (exec (.xori rd rs1 imm) s) s (withReg s rd v) (s.pc + 4))

/-- R227, R228, R229, R236, R237, R238: the shifts, by the low five bits of `x[rs2]` or by `shamt`. -/
def Obligations.ShiftResults : Prop :=
  ∀ (rd rs1 rs2 : Reg) (shamt : BitVec 5) (s : State),
    let a := s.readReg rs1
    let k := (s.readReg rs2).toNat % 32
    (decode (wordR 0b0000000 rs2 rs1 0b001 rd 0b0110011) = .ok (.sll rd rs1 rs2)
      ∧ Completes (exec (.sll rd rs1 rs2) s) s (withReg s rd (shiftedLeft a k)) (s.pc + 4))
    ∧ (decode (wordR 0b0000000 rs2 rs1 0b101 rd 0b0110011) = .ok (.srl rd rs1 rs2)
      ∧ Completes (exec (.srl rd rs1 rs2) s) s (withReg s rd (shiftedRight a k)) (s.pc + 4))
    ∧ (decode (wordR 0b0100000 rs2 rs1 0b101 rd 0b0110011) = .ok (.sra rd rs1 rs2)
      ∧ Completes (exec (.sra rd rs1 rs2) s) s (withReg s rd (shiftedRightSigned a k)) (s.pc + 4))
    ∧ (decode (wordShift 0b0000000 shamt rs1 0b001 rd 0b0010011) = .ok (.slli rd rs1 shamt)
      ∧ Completes (exec (.slli rd rs1 shamt) s) s (withReg s rd (shiftedLeft a shamt.toNat)) (s.pc + 4))
    ∧ (decode (wordShift 0b0000000 shamt rs1 0b101 rd 0b0010011) = .ok (.srli rd rs1 shamt)
      ∧ Completes (exec (.srli rd rs1 shamt) s) s (withReg s rd (shiftedRight a shamt.toNat)) (s.pc + 4))
    ∧ (decode (wordShift 0b0100000 shamt rs1 0b101 rd 0b0010011) = .ok (.srai rd rs1 shamt)
      ∧ Completes (exec (.srai rd rs1 shamt) s) s (withReg s rd (shiftedRightSigned a shamt.toNat)) (s.pc + 4))

/-- R222, R223, R231: SLT and SLTI compare signed, SLTU unsigned; the result is 1 or 0. -/
def Obligations.SetLessThanResults : Prop :=
  ∀ (rd rs1 rs2 : Reg) (imm : BitVec 12) (s : State),
    let a := s.readReg rs1
    let b := s.readReg rs2
    (decode (wordR 0b0000000 rs2 rs1 0b010 rd 0b0110011) = .ok (.slt rd rs1 rs2)
      ∧ Completes (exec (.slt rd rs1 rs2) s) s (withReg s rd (oneIf (a.toInt < b.toInt))) (s.pc + 4))
    ∧ (decode (wordR 0b0000000 rs2 rs1 0b011 rd 0b0110011) = .ok (.sltu rd rs1 rs2)
      ∧ Completes (exec (.sltu rd rs1 rs2) s) s (withReg s rd (oneIf (a.toNat < b.toNat))) (s.pc + 4))
    ∧ (decode (wordI imm rs1 0b010 rd 0b0010011) = .ok (.slti rd rs1 imm)
      ∧ Completes (exec (.slti rd rs1 imm) s) s (withReg s rd (oneIf (a.toInt < imm.toInt))) (s.pc + 4))

/-- R232: SLTIU compares unsigned with the immediate zero-extended or sign-extended by `SLTIU_IMM_EXT`; both readings. -/
def Obligations.SltiuFollowsItsOpenParameter : Prop :=
  ∀ (rd rs1 : Reg) (imm : BitVec 12) (s : State),
    decode (wordI imm rs1 0b011 rd 0b0010011) = .ok (.sltiu rd rs1 imm)
      ∧ (s.params.sltiuImmExt = .zero →
        Completes (exec (.sltiu rd rs1 imm) s) s (withReg s rd (oneIf ((s.readReg rs1).toNat < imm.toNat))) (s.pc + 4))
      ∧ (s.params.sltiuImmExt = .sign →
        Completes (exec (.sltiu rd rs1 imm) s) s (withReg s rd (oneIf ((s.readReg rs1).toNat < (sext imm).toNat)))
          (s.pc + 4))

/-- R270, R271: LUI sets bits 31:12; AUIPC adds them to the address of the AUIPC. -/
def Obligations.UpperImmediateResults : Prop :=
  ∀ (rd : Reg) (imm : BitVec 20) (s : State),
    (decode (.full (imm ++ r5 rd ++ 0b0110111#7)) = .ok (.lui rd imm)
      ∧ Completes (exec (.lui rd imm) s) s (withReg s rd (BitVec.ofNat 32 (imm.toNat * 4096))) (s.pc + 4))
    ∧ (decode (.full (imm ++ r5 rd ++ 0b0010111#7)) = .ok (.auipc rd imm)
      ∧ Completes (exec (.auipc rd imm) s) s (withReg s rd (BitVec.ofNat 32 (s.pc.toNat + imm.toNat * 4096))) (s.pc + 4))

/-- R272: LUI of `K[31:12] + K[11]` and ADDI of `K[11:0]` leave `K`, for every 32-bit constant. -/
def Obligations.LuiThenAddiBuildsAnyConstant : Prop :=
  ∀ (K : Word) (rd : Reg) (s : State), rd ≠ 0 →
    ∃ t u, exec (.lui rd (K.extractLsb' 12 20 + if K.getLsbD 11 then 1 else 0)) s = .next t
      ∧ exec (.addi rd rd (K.extractLsb' 0 12)) t = .next u ∧ u.readReg rd = K

/-! ### Loads and stores (45_load_store.md) -/

/-- R250 to R254: the five loads: where each traps, and the extended value each leaves. -/
def Obligations.LoadResults : Prop :=
  ∀ (rd rs1 : Reg) (imm : BitVec 12) (s : State),
    let a := effAddr s rs1 imm
    a = plus (s.readReg rs1) imm.toInt
    ∧ (decode (wordI imm rs1 0b010 rd 0b0000011) = .ok (.lw rd rs1 imm)
      ∧ LoadOutcome (exec (.lw rd rs1 imm) s) s 4 a rd (BitVec.ofNat 32 (bytesValue s a 4)) 4)
    ∧ (decode (wordI imm rs1 0b001 rd 0b0000011) = .ok (.lh rd rs1 imm)
      ∧ LoadOutcome (exec (.lh rd rs1 imm) s) s 2 a rd (sext (BitVec.ofNat 16 (bytesValue s a 2))) 4)
    ∧ (decode (wordI imm rs1 0b101 rd 0b0000011) = .ok (.lhu rd rs1 imm)
      ∧ LoadOutcome (exec (.lhu rd rs1 imm) s) s 2 a rd (BitVec.ofNat 32 (bytesValue s a 2)) 4)
    ∧ (decode (wordI imm rs1 0b000 rd 0b0000011) = .ok (.lb rd rs1 imm)
      ∧ LoadOutcome (exec (.lb rd rs1 imm) s) s 1 a rd (sext (BitVec.ofNat 8 (bytesValue s a 1))) 4)
    ∧ (decode (wordI imm rs1 0b100 rd 0b0000011) = .ok (.lbu rd rs1 imm)
      ∧ LoadOutcome (exec (.lbu rd rs1 imm) s) s 1 a rd (BitVec.ofNat 32 (bytesValue s a 1)) 4)

/-- R255 to R257: the three stores: where each traps or is refused, and exactly the bytes each writes. -/
def Obligations.StoreResults : Prop :=
  ∀ (rs2 rs1 : Reg) (imm : BitVec 12) (s : State),
    let a := effAddr s rs1 imm
    let v := s.readReg rs2
    a = plus (s.readReg rs1) imm.toInt
    ∧ (decode (wordS imm rs2 rs1 0b010 0b0100011) = .ok (.sw rs2 rs1 imm)
      ∧ StoreOutcome (exec (.sw rs2 rs1 imm) s) s 4 a v 4)
    ∧ (decode (wordS imm rs2 rs1 0b001 0b0100011) = .ok (.sh rs2 rs1 imm)
      ∧ StoreOutcome (exec (.sh rs2 rs1 imm) s) s 2 a v 4)
    ∧ (decode (wordS imm rs2 rs1 0b000 0b0100011) = .ok (.sb rs2 rs1 imm)
      ∧ StoreOutcome (exec (.sb rs2 rs1 imm) s) s 1 a v 4)

/-- R153, R203: C.LW and C.LWSP: where each traps, and the word each loads. -/
def Obligations.CompressedLoadResults : Prop :=
  ∀ (s : State),
    (∀ (rd rs1 : CReg) (u : BitVec 5),
      let a := clAddr s rs1 u
      a = plus (s.readReg (creg rs1)) (4 * u.toNat)
        ∧ decode (wordCL 0b010 (u ++ 0b00#2) rs1 rd) = .ok (.cLw rd rs1 u)
        ∧ LoadOutcome (exec (.cLw rd rs1 u) s) s 4 a (creg rd) (BitVec.ofNat 32 (bytesValue s a 4)) 2)
    ∧ ∀ (rd : Reg) (u : BitVec 6),
      let a := spAddr s u
      let off : BitVec 8 := u ++ 0b00#2
      a = plus (s.readReg 2) (4 * u.toNat)
        ∧ (rd ≠ 0 → decode (wordCI 0b010 (off.extractLsb' 5 1) (r5 rd) (off.extractLsb' 2 3 ++ off.extractLsb' 6 2) 0b10)
            = .ok (.cLwsp rd u))
        ∧ LoadOutcome (exec (.cLwsp rd u) s) s 4 a rd (BitVec.ofNat 32 (bytesValue s a 4)) 2

/-- R154, R213: C.SW and C.SWSP: where each traps or is refused, and exactly the bytes each writes. -/
def Obligations.CompressedStoreResults : Prop :=
  ∀ (s : State),
    (∀ (rs2 rs1 : CReg) (u : BitVec 5),
      let a := clAddr s rs1 u
      a = plus (s.readReg (creg rs1)) (4 * u.toNat)
        ∧ decode (wordCL 0b110 (u ++ 0b00#2) rs1 rs2) = .ok (.cSw rs2 rs1 u)
        ∧ StoreOutcome (exec (.cSw rs2 rs1 u) s) s 4 a (s.readReg (creg rs2)) 2)
    ∧ ∀ (rs2 : Reg) (u : BitVec 6),
      let a := spAddr s u
      let off : BitVec 8 := u ++ 0b00#2
      a = plus (s.readReg 2) (4 * u.toNat)
        ∧ decode (.half (0b110#3 ++ off.extractLsb' 2 4 ++ off.extractLsb' 6 2 ++ r5 rs2 ++ 0b10#2)) = .ok (.cSwsp rs2 u)
        ∧ StoreOutcome (exec (.cSwsp rs2 u) s) s 4 a (s.readReg rs2) 2

/-- R49: the compressed loads and stores are misaligned exactly when their base register is not a multiple of 4. -/
def Obligations.CompressedAccessIsMisalignedWithItsBase : Prop :=
  ∀ (s : State) (r rs1 : CReg) (u : BitVec 5) (q : Reg) (u' : BitVec 6),
    (Traps (exec (.cLw r rs1 u) s) s .loadAddressMisaligned (some (clAddr s rs1 u)) ↔ (s.readReg (creg rs1)).toNat % 4 ≠ 0)
    ∧ (Traps (exec (.cSw r rs1 u) s) s .storeAddressMisaligned (some (clAddr s rs1 u))
        ↔ (s.readReg (creg rs1)).toNat % 4 ≠ 0)
    ∧ (Traps (exec (.cLwsp q u') s) s .loadAddressMisaligned (some (spAddr s u')) ↔ (s.readReg 2).toNat % 4 ≠ 0)
    ∧ (Traps (exec (.cSwsp q u') s) s .storeAddressMisaligned (some (spAddr s u')) ↔ (s.readReg 2).toNat % 4 ≠ 0)

/-! ### Control flow and system (47_control_flow.md, 48_system.md) -/

/-- R280, R281: JAL and JALR link `pc + 4`; JALR's target is even and computed from the old `x[rs1]`, also where `rd` is
`rs1`; JALR's opcode with another funct3 is illegal. -/
def Obligations.JumpAndLinkResults : Prop :=
  ∀ (rd rs1 : Reg) (off : BitVec 20) (imm : BitVec 12) (s : State),
    (decode (wordJ (off ++ 0b0#1) rd 0b1101111) = .ok (.jal rd off)
      ∧ Completes (exec (.jal rd off) s) s (withReg s rd (s.pc + 4)) (plus s.pc (2 * off.toInt)))
    ∧ (decode (wordI imm rs1 0b000 rd 0b1100111) = .ok (.jalr rd rs1 imm)
      ∧ Completes (exec (.jalr rd rs1 imm) s) s (withReg s rd (s.pc + 4))
        (BitVec.ofNat 32 ((plus (s.readReg rs1) imm.toInt).toNat / 2 * 2)))
    ∧ ∀ (f3 : BitVec 3) (w : Word), f3 ≠ 0b000#3 → wordI imm rs1 f3 rd 0b1100111 = .full w → s.fetch = .next (.full w) →
      Traps (step s) s .illegalInstruction (some w)

/-- R282 to R287: the six branches: a taken branch goes to `pc` plus its even offset, one not taken to `pc + 4`; no register
changes. -/
def Obligations.BranchResults : Prop :=
  ∀ (rs1 rs2 : Reg) (off : BitVec 12) (s : State),
    let a := s.readReg rs1
    let b := s.readReg rs2
    let goes := fun (i : Instr) (taken : Prop) (_ : Decidable taken) =>
      Completes (exec i s) s s.readReg (if taken then plus s.pc (2 * off.toInt) else s.pc + 4)
    (decode (wordB (off ++ 0b0#1) rs2 rs1 0b000 0b1100011) = .ok (.beq rs1 rs2 off)
      ∧ goes (.beq rs1 rs2 off) (a.toNat = b.toNat) inferInstance)
    ∧ (decode (wordB (off ++ 0b0#1) rs2 rs1 0b001 0b1100011) = .ok (.bne rs1 rs2 off)
      ∧ goes (.bne rs1 rs2 off) (a.toNat ≠ b.toNat) inferInstance)
    ∧ (decode (wordB (off ++ 0b0#1) rs2 rs1 0b100 0b1100011) = .ok (.blt rs1 rs2 off)
      ∧ goes (.blt rs1 rs2 off) (a.toInt < b.toInt) inferInstance)
    ∧ (decode (wordB (off ++ 0b0#1) rs2 rs1 0b101 0b1100011) = .ok (.bge rs1 rs2 off)
      ∧ goes (.bge rs1 rs2 off) (b.toInt ≤ a.toInt) inferInstance)
    ∧ (decode (wordB (off ++ 0b0#1) rs2 rs1 0b110 0b1100011) = .ok (.bltu rs1 rs2 off)
      ∧ goes (.bltu rs1 rs2 off) (a.toNat < b.toNat) inferInstance)
    ∧ (decode (wordB (off ++ 0b0#1) rs2 rs1 0b111 0b1100011) = .ok (.bgeu rs1 rs2 off)
      ∧ goes (.bgeu rs1 rs2 off) (b.toNat ≤ a.toNat) inferInstance)

/-- R209, R300, R301: C.EBREAK, EBREAK and ECALL raise their exception, with no info. -/
def Obligations.BreakpointAndEnvironmentCallTrap : Prop :=
  decode (.half 0x9002) = .ok .cEbreak ∧ decode (.full 0x00100073) = .ok .ebreak ∧ decode (.full 0x00000073) = .ok .ecall
    ∧ ∀ s : State, Traps (exec .cEbreak s) s .breakpoint none ∧ Traps (exec .ebreak s) s .breakpoint none
      ∧ Traps (exec .ecall s) s .environmentCall none

/-- R302: FENCE, whatever its ignored fields, only advances `pc`. -/
def Obligations.FenceOnlyAdvances : Prop :=
  ∀ (hi : BitVec 17) (lo : BitVec 5) (s : State),
    decode (.full (hi ++ 0b000#3 ++ lo ++ 0b0001111#7)) = .ok (.fence hi lo)
      ∧ Completes (exec (.fence hi lo) s) s s.readReg (s.pc + 4)

/-! ### Compressed instructions (41_c_quadrant0.md, 42_c_quadrant1.md, 43_c_quadrant2.md) -/

/-- R152, R171, R173, R175, R177: the compressed immediates: the labels carry the scale. -/
def Obligations.CompressedImmediateResults : Prop :=
  ∀ (s : State) (rd' : CReg) (u : BitVec 8) (rd : Reg) (imm : BitVec 6),
    let nz10 : BitVec 10 := imm ++ 0b0000#4
    let nzu : BitVec 10 := u ++ 0b00#2
    ((u ≠ 0 → decode (.half (0b000#3 ++ nzu.extractLsb' 4 2 ++ nzu.extractLsb' 6 4 ++ nzu.extractLsb' 2 1
          ++ nzu.extractLsb' 3 1 ++ rd' ++ 0b00#2)) = .ok (.cAddi4spn rd' u))
      ∧ Completes (exec (.cAddi4spn rd' u) s) s (withReg s (creg rd') (plus (s.readReg 2) (4 * u.toNat))) (s.pc + 2))
    ∧ ((rd ≠ 0 → decode (wordCI 0b000 (imm.extractLsb' 5 1) (r5 rd) (imm.extractLsb' 0 5) 0b01) = .ok (.cAddi rd imm))
      ∧ Completes (exec (.cAddi rd imm) s) s (withReg s rd (plus (s.readReg rd) imm.toInt)) (s.pc + 2))
    ∧ ((rd ≠ 0 → decode (wordCI 0b010 (imm.extractLsb' 5 1) (r5 rd) (imm.extractLsb' 0 5) 0b01) = .ok (.cLi rd imm))
      ∧ Completes (exec (.cLi rd imm) s) s (withReg s rd (sext imm)) (s.pc + 2))
    ∧ ((imm ≠ 0 → decode (wordCI 0b011 (nz10.extractLsb' 9 1) 0b00010 (nz10.extractLsb' 4 1 ++ nz10.extractLsb' 6 1
          ++ nz10.extractLsb' 7 2 ++ nz10.extractLsb' 5 1) 0b01) = .ok (.cAddi16sp imm))
      ∧ Completes (exec (.cAddi16sp imm) s) s (withReg s 2 (plus (s.readReg 2) (16 * imm.toInt))) (s.pc + 2))
    ∧ ((rd ≠ 0 → rd ≠ 2 → imm ≠ 0 →
        decode (wordCI 0b011 (imm.extractLsb' 5 1) (r5 rd) (imm.extractLsb' 0 5) 0b01) = .ok (.cLui rd imm))
      ∧ Completes (exec (.cLui rd imm) s) s (withReg s rd (BitVec.ofInt 32 (4096 * imm.toInt))) (s.pc + 2))

/-- R180, R181, R200: the compressed shifts, by 1 to 31. -/
def Obligations.CompressedShiftResults : Prop :=
  ∀ (s : State) (rd' : CReg) (rd : Reg) (shamt : BitVec 5),
    ((shamt ≠ 0 → decode (wordCB 0b0 0b00 rd' shamt) = .ok (.cSrli rd' shamt))
      ∧ Completes (exec (.cSrli rd' shamt) s) s
        (withReg s (creg rd') (shiftedRight (s.readReg (creg rd')) shamt.toNat)) (s.pc + 2))
    ∧ ((shamt ≠ 0 → decode (wordCB 0b0 0b01 rd' shamt) = .ok (.cSrai rd' shamt))
      ∧ Completes (exec (.cSrai rd' shamt) s) s
        (withReg s (creg rd') (shiftedRightSigned (s.readReg (creg rd')) shamt.toNat)) (s.pc + 2))
    ∧ ((rd ≠ 0 → shamt ≠ 0 → decode (wordCI 0b000 0b0 (r5 rd) shamt 0b10) = .ok (.cSlli rd shamt))
      ∧ Completes (exec (.cSlli rd shamt) s) s (withReg s rd (shiftedLeft (s.readReg rd) shamt.toNat)) (s.pc + 2))

/-- R183 to R187, R207, R211: C.ANDI and the compressed register operations. -/
def Obligations.CompressedRegisterResults : Prop :=
  ∀ (s : State) (rd' rs2' : CReg) (imm : BitVec 6) (rd rs2 : Reg),
    let a := s.readReg (creg rd')
    let b := s.readReg (creg rs2')
    (decode (wordCB (imm.extractLsb' 5 1) 0b10 rd' (imm.extractLsb' 0 5)) = .ok (.cAndi rd' imm)
      ∧ ∃ v, BitwiseOf and a (sext imm) v ∧ Completes (exec (.cAndi rd' imm) s) s (withReg s (creg rd') v) (s.pc + 2))
    ∧ (decode (wordCB 0b0 0b11 rd' (0b00#2 ++ rs2')) = .ok (.cSub rd' rs2')
      ∧ Completes (exec (.cSub rd' rs2') s) s (withReg s (creg rd') (BitVec.ofInt 32 (a.toNat - b.toNat : Int))) (s.pc + 2))
    ∧ (decode (wordCB 0b0 0b11 rd' (0b01#2 ++ rs2')) = .ok (.cXor rd' rs2')
      ∧ ∃ v, BitwiseOf xor a b v ∧ Completes (exec (.cXor rd' rs2') s) s (withReg s (creg rd') v) (s.pc + 2))
    ∧ (decode (wordCB 0b0 0b11 rd' (0b10#2 ++ rs2')) = .ok (.cOr rd' rs2')
      ∧ ∃ v, BitwiseOf or a b v ∧ Completes (exec (.cOr rd' rs2') s) s (withReg s (creg rd') v) (s.pc + 2))
    ∧ (decode (wordCB 0b0 0b11 rd' (0b11#2 ++ rs2')) = .ok (.cAnd rd' rs2')
      ∧ ∃ v, BitwiseOf and a b v ∧ Completes (exec (.cAnd rd' rs2') s) s (withReg s (creg rd') v) (s.pc + 2))
    ∧ ((rd ≠ 0 → rs2 ≠ 0 → decode (wordCI 0b100 0b0 (r5 rd) (r5 rs2) 0b10) = .ok (.cMv rd rs2))
      ∧ Completes (exec (.cMv rd rs2) s) s (withReg s rd (s.readReg rs2)) (s.pc + 2))
    ∧ ((rd ≠ 0 → rs2 ≠ 0 → decode (wordCI 0b100 0b1 (r5 rd) (r5 rs2) 0b10) = .ok (.cAdd rd rs2))
      ∧ Completes (exec (.cAdd rd rs2) s) s
        (withReg s rd (BitVec.ofNat 32 ((s.readReg rd).toNat + (s.readReg rs2).toNat))) (s.pc + 2))

/-- R172, R189, R205, R210: the compressed jumps: C.JAL and C.JALR link `pc + 2` in `x1`; C.JR and C.JALR go to an even
address; C.JALR reads `x[rs1]` first, also where it is `x1`. -/
def Obligations.CompressedJumpResults : Prop :=
  ∀ (s : State) (off : BitVec 11) (rs1 : Reg),
    let target := BitVec.ofNat 32 ((s.readReg rs1).toNat / 2 * 2)
    (decode (wordCJ 0b001 (off ++ 0b0#1)) = .ok (.cJal off)
      ∧ Completes (exec (.cJal off) s) s (withReg s 1 (s.pc + 2)) (plus s.pc (2 * off.toInt)))
    ∧ (decode (wordCJ 0b101 (off ++ 0b0#1)) = .ok (.cJ off)
      ∧ Completes (exec (.cJ off) s) s s.readReg (plus s.pc (2 * off.toInt)))
    ∧ ((rs1 ≠ 0 → decode (wordCI 0b100 0b0 (r5 rs1) 0b00000 0b10) = .ok (.cJr rs1))
      ∧ Completes (exec (.cJr rs1) s) s s.readReg target)
    ∧ ((rs1 ≠ 0 → decode (wordCI 0b100 0b1 (r5 rs1) 0b00000 0b10) = .ok (.cJalr rs1))
      ∧ Completes (exec (.cJalr rs1) s) s (withReg s 1 (s.pc + 2)) target)

/-- R190, R191: C.BEQZ and C.BNEZ compare all 32 bits with zero. -/
def Obligations.CompressedBranchResults : Prop :=
  ∀ (s : State) (rs1 : CReg) (off : BitVec 8),
    let a := s.readReg (creg rs1)
    let target := plus s.pc (2 * off.toInt)
    (decode (wordCBranch 0b110 rs1 (off ++ 0b0#1)) = .ok (.cBeqz rs1 off)
      ∧ Completes (exec (.cBeqz rs1 off) s) s s.readReg (if a.toNat = 0 then target else s.pc + 2))
    ∧ (decode (wordCBranch 0b111 rs1 (off ++ 0b0#1)) = .ok (.cBnez rs1 off)
      ∧ Completes (exec (.cBnez rs1 off) s) s s.readReg (if a.toNat = 0 then s.pc + 2 else target))

/-- R170, R174, R179, R201, R208, R212 and the list of R94: C.NOP and every hint change only `pc`. -/
def Obligations.HintsOnlyAdvance : Prop :=
  ∀ (s : State) (imm : BitVec 6) (shamt : BitVec 5) (rs2 rd : Reg),
    let onlyAdvances := fun i : Instr => Completes (exec i s) s s.readReg (s.pc + 2)
    (decode (wordCI 0b000 (imm.extractLsb' 5 1) 0b00000 (imm.extractLsb' 0 5) 0b01) = .ok (.cNop imm)
      ∧ onlyAdvances (.cNop imm))
    ∧ ((rd ≠ 0 → decode (wordCI 0b000 0b0 (r5 rd) 0b00000 0b01) = .ok (.cAddi rd 0)) ∧ onlyAdvances (.cAddi rd 0))
    ∧ (decode (wordCI 0b010 (imm.extractLsb' 5 1) 0b00000 (imm.extractLsb' 0 5) 0b01) = .ok (.hintCLi imm)
      ∧ onlyAdvances (.hintCLi imm))
    ∧ ((imm ≠ 0 → decode (wordCI 0b011 (imm.extractLsb' 5 1) 0b00000 (imm.extractLsb' 0 5) 0b01) = .ok (.hintCLui imm))
      ∧ onlyAdvances (.hintCLui imm))
    ∧ ((shamt ≠ 0 → decode (wordCI 0b000 0b0 0b00000 shamt 0b10) = .ok (.hintCSlli shamt))
      ∧ onlyAdvances (.hintCSlli shamt))
    ∧ ((rs2 ≠ 0 → decode (wordCI 0b100 0b0 0b00000 (r5 rs2) 0b10) = .ok (.hintCMv rs2)) ∧ onlyAdvances (.hintCMv rs2))
    ∧ ((rs2 ≠ 0 → decode (wordCI 0b100 0b1 0b00000 (r5 rs2) 0b10) = .ok (.hintCAdd rs2)) ∧ onlyAdvances (.hintCAdd rs2))

/-! ### The CIM unit (40_cim_and_multiply.md): operations no instruction reaches -/

/-- R120: precision in bits is `2^code`, and so are the SAR cycles, for the four codes. -/
def Obligations.PrecisionCodes : Prop :=
  (∀ p : Precision, precisionBits p = 2 ^ p.toNat ∧ sarCycles p = 2 ^ p.toNat)
    ∧ [0, 1, 2, 3].map precisionBits = [1, 2, 4, 8] ∧ [0, 1, 2, 3].map sarCycles = [1, 2, 4, 8]

/-- R125: with at most one row selected, a WRITE `DoA` programs exactly the cells of the selected row and the strobed columns
of its corelet, and changes nothing else. The model's own: the form of a cell and of `WD` (log 12), that the column outputs
stay (log 14), that the corelet is an argument and the other fifteen stay (log 16). -/
def Obligations.WriteActionProgramsSelectedCells : Prop :=
  ∀ (k : Fin 16) (s : State), s.cim.fs.op = .write →
    (∀ i j : Fin 4, s.cim.rs.getLsbD i = true → s.cim.rs.getLsbD j = true → i = j) →
    ∃ t, doA k s = .next t
      ∧ (∀ i c : Fin 4, t.cim.cells[k][i][c] =
        if s.cim.rs.getLsbD i ∧ s.cim.wds.getLsbD c then ⟨s.cim.fs.precision, s.cim.wd[c]⟩ else s.cim.cells[k][i][c])
      ∧ (∀ j : Fin 16, j ≠ k → t.cim.cells[j] = s.cim.cells[j])
      ∧ SameCimRegisters t.cim s.cim ∧ t.cim.columns = s.cim.columns ∧ t.cim.hold = s.cim.hold ∧ SameCpu t s

/-- R127: in forward READ mode `DoA` drives the column sums of the driven rows, `DoS` captures them, and `DoR` delivers the
conversion of column `CS` in the register `SAM` names. The model's own: weight and converter are free functions (log 13), the
column outputs are a field (log 14), the corelet is `DoA`'s argument (log 16), `DoS` and `DoR` do not read `FS` (log 22), one
set of outputs and one latch serve all corelets (log 23). -/
def Obligations.ReadActionsSampleAndConvert : Prop :=
  ∀ (k : Fin 16) (s : State), s.cim.fs.op = .read → s.cim.fs.mode = .forward →
    ∃ t u v, doA k s = .next t ∧ doS t = .next u ∧ doR u = .next v
      ∧ (∀ c : Fin 4, t.cim.columns[c] = ∑ i : Fin 4, if s.cim.rs.getLsbD i then s.cim.cells[k][i][c].weight else 0)
      ∧ t.cim.hold = s.cim.hold ∧ t.cim.cells = s.cim.cells ∧ SameCimRegisters t.cim s.cim ∧ SameCpu t s
      ∧ u.cim = { t.cim with hold := t.cim.columns } ∧ SameCpu u s
      ∧ v.cim = u.cim ∧ v.pc = s.pc ∧ v.mem = s.mem ∧ v.params = s.params
      ∧ ∀ q, v.readReg q = withReg s s.cim.sam.resultReg
        (Config.adc s.cim.sam.precision (t.cim.columns[s.cim.cs.toNat]'(s.cim.cs.isLt))) q

/-- R129, log 15: a READ `DoA` in backward or recurrent mode has no meaning. -/
def Obligations.UndescribedModesAreRefused : Prop :=
  ∀ (k : Fin 16) (s : State), s.cim.fs.op = .read → s.cim.fs.mode ≠ .forward → doA k s = .refused .cimModeUndescribed

/-- R124: LOAD_WEIGHTS leaves the matrix in the corelet, one element a cell at the given precision, and the registers as its
last round wrote them; every other corelet and the CPU stay. The model's own: the form of a cell and of `WD` (log 12), and that
the corelet is an argument and the other fifteen stay (log 16). -/
def Obligations.LoadWeightsProgramsTheMatrix : Prop :=
  ∀ (k : Fin 16) (m : Vector (Vector Byte 4) 4) (p : Precision) (s : State),
    ∃ t, loadWeights k m p s = .next t
      ∧ (∀ r c : Fin 4, t.cim.cells[k][r][c] = ⟨p, m[r][c]⟩)
      ∧ (∀ j : Fin 16, j ≠ k → t.cim.cells[j] = s.cim.cells[j])
      ∧ t.cim.rs = 0b1000#4 ∧ t.cim.wd = m[3] ∧ t.cim.wds = 0b1111#4 ∧ t.cim.fs.op = .write ∧ t.cim.fs.precision = p
      ∧ t.cim.sam = s.cim.sam ∧ t.cim.cs = s.cim.cs ∧ t.cim.hold = s.cim.hold ∧ SameCpu t s

/-- R128: with an exact converter, MVM of inputs below `2^precision`, delivered through a register other than `x0`, leaves in its
accumulators the product of the input vector and the weights of the corelet, modulo 2^32; delivered through `x0`, which reads
as 0 (R12), it leaves them 0. The hardware's converter is a free function (log 13): this says what the procedure computes,
not what the chip delivers. The model's own besides: the column outputs are a field (log 14), the corelet is an argument
(log 16), `DoS` and `DoR` do not read `FS` (log 22), one set of outputs and one latch serve all corelets (log 23). -/
def Obligations.MvmWithExactConverterIsTheProduct : Prop :=
  ∀ (k : Fin 16) (input : Vector Byte 4) (p : Precision) (r : Reg) (s : State),
    (∀ i : Fin 4, input[i].toNat < 2 ^ precisionBits p) →
    ∃ t acc, mvmWith exactAdc k input p r s = .next (t, acc)
      ∧ (∀ c : Fin 4, acc[c] = if r = 0 then 0
        else BitVec.ofInt 32 (∑ i : Fin 4, (input[i].toNat : Int) * s.cim.cells[k][i][c].weight))
      ∧ t.cim.cells = s.cim.cells ∧ t.pc = s.pc ∧ t.mem = s.mem ∧ t.params = s.params
      ∧ ∀ q, q ≠ r → t.readReg q = s.readReg q

/-! ### What has no meaning (R8(c)) -/

/-- R52, D5: over any run from a launch, fetch reads the launch image: what it gives is what it gives at that `pc` right after
the launch; and a step at a byte that has changed since, in either parcel of its instruction, is refused. The form of that
refusal is the model's (log 20). -/
def Obligations.FetchReadsTheLaunchImage : Prop :=
  (∀ (l : Launch) (n : Nat) (t : State) (w : InstWord), Host.Core.run Sys2Proof.core n (State.launch l) = .next t →
    t.fetch = .next w → ((State.launch l).setPc t.pc).fetch = .next w)
    ∧ ∀ s : State, AllValid s 2 s.pc →
      (¬ Launched s 2 s.pc → step s = .refused (.selfModifiedCode s.pc))
        ∧ (Launched s 2 s.pc → (s.readByte s.pc).toNat % 4 = 3 → AllValid s 4 s.pc → ¬ Launched s 4 s.pc →
          step s = .refused (.selfModifiedCode s.pc))

/-- R125, U18: a WRITE `DoA` with two rows selected is refused (the refusal's form is the model's: log 15). -/
def Obligations.SeveralRowsWriteIsRefused : Prop :=
  ∀ (k : Fin 16) (s : State), s.cim.fs.op = .write →
    (∃ i j : Fin 4, i ≠ j ∧ s.cim.rs.getLsbD i = true ∧ s.cim.rs.getLsbD j = true) → doA k s = .refused .cimSeveralRows
end

