-- ==== Sys2Proof/Laws/State.lean ====
section
/-! SUPPORT. One lemma per field per update of State. -/
namespace Sys2Proof.Machine

@[simp] theorem State.setPc_pc (s : State) (t : Word) : (s.setPc t).pc = t := rfl
@[simp] theorem State.setPc_regs (s : State) (t : Word) : (s.setPc t).regs = s.regs := rfl
@[simp] theorem State.setPc_mem (s : State) (t : Word) : (s.setPc t).mem = s.mem := rfl
@[simp] theorem State.setPc_cim (s : State) (t : Word) : (s.setPc t).cim = s.cim := rfl
@[simp] theorem State.setPc_params (s : State) (t : Word) : (s.setPc t).params = s.params := rfl

@[simp] theorem State.advance_pc (s : State) (n : Word) : (s.advance n).pc = s.pc + n := rfl
@[simp] theorem State.advance_regs (s : State) (n : Word) : (s.advance n).regs = s.regs := rfl
@[simp] theorem State.advance_mem (s : State) (n : Word) : (s.advance n).mem = s.mem := rfl
@[simp] theorem State.advance_cim (s : State) (n : Word) : (s.advance n).cim = s.cim := rfl
@[simp] theorem State.advance_params (s : State) (n : Word) : (s.advance n).params = s.params := rfl

@[simp] theorem State.setMem_pc (s : State) (m : Memory) : (s.setMem m).pc = s.pc := rfl
@[simp] theorem State.setMem_regs (s : State) (m : Memory) : (s.setMem m).regs = s.regs := rfl
@[simp] theorem State.setMem_mem (s : State) (m : Memory) : (s.setMem m).mem = m := rfl
@[simp] theorem State.setMem_cim (s : State) (m : Memory) : (s.setMem m).cim = s.cim := rfl
@[simp] theorem State.setMem_params (s : State) (m : Memory) : (s.setMem m).params = s.params := rfl

@[simp] theorem State.setCim_pc (s : State) (c : CimState) : (s.setCim c).pc = s.pc := rfl
@[simp] theorem State.setCim_regs (s : State) (c : CimState) : (s.setCim c).regs = s.regs := rfl
@[simp] theorem State.setCim_mem (s : State) (c : CimState) : (s.setCim c).mem = s.mem := rfl
@[simp] theorem State.setCim_cim (s : State) (c : CimState) : (s.setCim c).cim = c := rfl
@[simp] theorem State.setCim_params (s : State) (c : CimState) : (s.setCim c).params = s.params := rfl

@[simp] theorem State.setMemValid_pc (s : State) (v : List Span) : (s.setMemValid v).pc = s.pc := rfl
@[simp] theorem State.setMemValid_regs (s : State) (v : List Span) : (s.setMemValid v).regs = s.regs := rfl
@[simp] theorem State.setMemValid_mem (s : State) (v : List Span) : (s.setMemValid v).mem = s.mem := rfl
@[simp] theorem State.setMemValid_cim (s : State) (v : List Span) : (s.setMemValid v).cim = s.cim := rfl
@[simp] theorem State.setMemValid_memValid (s : State) (v : List Span) : (s.setMemValid v).params.memValid = v := rfl
@[simp] theorem State.setMemValid_codeRegion (s : State) (v : List Span) :
    (s.setMemValid v).params.codeRegion = s.params.codeRegion := rfl
@[simp] theorem State.setMemValid_sltiuImmExt (s : State) (v : List Span) :
    (s.setMemValid v).params.sltiuImmExt = s.params.sltiuImmExt := rfl

@[simp] theorem State.setMemValid_image (s : State) (v : List Span) : (s.setMemValid v).params.image = s.params.image := rfl

@[simp] theorem State.setImage_pc (s : State) (m : Memory) : (s.setImage m).pc = s.pc := rfl
@[simp] theorem State.setImage_regs (s : State) (m : Memory) : (s.setImage m).regs = s.regs := rfl
@[simp] theorem State.setImage_mem (s : State) (m : Memory) : (s.setImage m).mem = s.mem := rfl
@[simp] theorem State.setImage_cim (s : State) (m : Memory) : (s.setImage m).cim = s.cim := rfl
@[simp] theorem State.setImage_image (s : State) (m : Memory) : (s.setImage m).params.image = m := rfl
@[simp] theorem State.setImage_memValid (s : State) (m : Memory) : (s.setImage m).params.memValid = s.params.memValid := rfl
@[simp] theorem State.setImage_codeRegion (s : State) (m : Memory) :
    (s.setImage m).params.codeRegion = s.params.codeRegion := rfl
@[simp] theorem State.setImage_sltiuImmExt (s : State) (m : Memory) :
    (s.setImage m).params.sltiuImmExt = s.params.sltiuImmExt := rfl

@[simp] theorem State.writeReg_pc (s : State) (r : Reg) (v : Word) : (s.writeReg r v).pc = s.pc := by
  unfold State.writeReg; split <;> rfl
@[simp] theorem State.writeReg_mem (s : State) (r : Reg) (v : Word) : (s.writeReg r v).mem = s.mem := by
  unfold State.writeReg; split <;> rfl
@[simp] theorem State.writeReg_cim (s : State) (r : Reg) (v : Word) : (s.writeReg r v).cim = s.cim := by
  unfold State.writeReg; split <;> rfl
@[simp] theorem State.writeReg_params (s : State) (r : Reg) (v : Word) : (s.writeReg r v).params = s.params := by
  unfold State.writeReg; split <;> rfl

/-- Two states with the same registers, memory, CIM unit, parameters and `pc` are one. -/
theorem State.eq_of_fields {s t : State} (hpc : s.pc = t.pc) (hregs : s.regs = t.regs) (hmem : s.mem = t.mem)
    (hcim : s.cim = t.cim) (hparams : s.params = t.params) : s = t := by
  cases s; cases t; simp_all

end Sys2Proof.Machine
end

