-- ==== Sys2Proof/Laws/Memory.lean ====
section
/-! SUPPORT. The laws of the memory map: read after write, and that every operation keeps the canonical form (20_memory.md
R42, R45; 10_state.md R34). -/
namespace Sys2Proof.Machine

/-- A form that holds from `lo` on holds from any lower address on. -/
theorem Memory.risingFrom_mono {m : Memory} {lo lo' : Nat} (h : lo' ≤ lo) (hm : Memory.risingFrom lo m = true) :
    Memory.risingFrom lo' m = true := by
  cases m with
  | nil => rfl
  | cons c m =>
    simp only [Memory.risingFrom, Bool.and_eq_true, decide_eq_true_eq] at hm ⊢
    exact ⟨⟨by omega, hm.1.2⟩, hm.2⟩

/-- Setting a byte keeps the canonical form from `lo` on. -/
theorem Memory.put_risingFrom {m : Memory} {lo a : Nat} {b : Byte} (ha : a < Config.addressSpace) (hlo : lo ≤ a)
    (hm : Memory.risingFrom lo m = true) : Memory.risingFrom lo (Memory.put m a b) = true := by
  induction m generalizing lo with
  | nil => simp [Memory.put, Memory.risingFrom, ha, hlo]
  | cons c m ih =>
    obtain ⟨k, d⟩ := c
    simp only [Memory.risingFrom, Bool.and_eq_true, decide_eq_true_eq] at hm
    unfold Memory.put
    split
    · simp only [Memory.risingFrom, Bool.and_eq_true, decide_eq_true_eq]
      exact ⟨⟨hlo, ha⟩, ⟨by omega, hm.1.2⟩, hm.2⟩
    · split
      · next h => subst h; simpa only [Memory.risingFrom, Bool.and_eq_true, decide_eq_true_eq] using hm
      · simp only [Memory.risingFrom, Bool.and_eq_true, decide_eq_true_eq]
        exact ⟨hm.1, ih (by omega) hm.2⟩

/-- Setting a byte keeps the canonical form. -/
theorem Memory.put_wf {m : Memory} {a : Nat} {b : Byte} (ha : a < Config.addressSpace) (hm : Memory.wf m = true) :
    Memory.wf (Memory.put m a b) = true :=
  Memory.put_risingFrom ha (Nat.zero_le a) hm

/-- An address of the machine is in the address space. -/
theorem Word.toNat_lt_addressSpace (a : Word) : a.toNat < Config.addressSpace := a.isLt

/-- Setting consecutive bytes keeps the canonical form. -/
theorem Memory.putBytes_wf {bs : List Byte} {m : Memory} {a : Word} (hm : Memory.wf m = true) :
    Memory.wf (Memory.putBytes m a bs) = true := by
  induction bs generalizing m a with
  | nil => exact hm
  | cons b bs ih => exact ih (Memory.put_wf (Word.toNat_lt_addressSpace a) hm)

/-- Read after write of one byte. -/
theorem Memory.byte?_put (m : Memory) (a a' : Nat) (b : Byte) :
    Memory.byte? (Memory.put m a b) a' = if a' = a then some b else Memory.byte? m a' := by
  induction m with
  | nil => simp [Memory.put, Memory.byte?, eq_comm]
  | cons c m ih =>
    obtain ⟨k, d⟩ := c
    unfold Memory.put
    split
    · simp [Memory.byte?, eq_comm]
    · split
      · next h => subst h; simp only [Memory.byte?, eq_comm]; split <;> rfl
      · next h =>
        simp only [Memory.byte?, ih]
        by_cases hk : k = a'
        · have : a' ≠ a := fun e => h (by omega)
          simp [hk, this]
        · simp [hk]

/-- A predicate that holds of every listed address and of the address set holds of every listed address after. -/
theorem Memory.all_put {p : Nat → Bool} {m : Memory} {a : Nat} {b : Byte} (hm : (m.all fun c => p c.1) = true)
    (ha : p a = true) : ((Memory.put m a b).all fun c => p c.1) = true := by
  induction m with
  | nil => simp [Memory.put, ha]
  | cons c m ih =>
    obtain ⟨k, d⟩ := c
    simp only [List.all_cons, Bool.and_eq_true] at hm
    unfold Memory.put
    split
    · simp only [List.all_cons, Bool.and_eq_true]; exact ⟨ha, hm⟩
    · split
      · simp only [List.all_cons, Bool.and_eq_true]; exact ⟨ha, hm.2⟩
      · simp only [List.all_cons, Bool.and_eq_true]; exact ⟨hm.1, ih hm.2⟩

/-- Addresses the writes do not touch keep their byte. -/
theorem Memory.byte?_putBytes_of_ne {bs : List Byte} {m : Memory} {a : Word} {x : Word}
    (h : ∀ i, i < bs.length → x ≠ a + BitVec.ofNat 32 i) :
    Memory.byte? (Memory.putBytes m a bs) x.toNat = Memory.byte? m x.toNat := by
  induction bs generalizing m a with
  | nil => rfl
  | cons b bs ih =>
    have h0 : x.toNat ≠ a.toNat := fun e => h 0 (by simp) (by simpa using BitVec.eq_of_toNat_eq e)
    rw [Memory.putBytes, ih (m := Memory.put m a.toNat b) (a := a + 1), Memory.byte?_put, if_neg h0]
    intro i hi e
    refine h (i + 1) (by simpa using hi) ?_
    rw [e, BitVec.add_assoc]; congr 1; simp [BitVec.ofNat_add, BitVec.add_comm]

/-- Offsets below 2^32 from one address are distinct addresses. -/
theorem Word.add_ofNat_inj {a : Word} {i j : Nat} (hi : i < 2 ^ 32) (hj : j < 2 ^ 32)
    (h : a + BitVec.ofNat 32 i = a + BitVec.ofNat 32 j) : i = j := by
  have h' : BitVec.ofNat 32 i = BitVec.ofNat 32 j := by
    have := congrArg (fun z => z - a) h
    simpa [BitVec.add_comm a, BitVec.add_sub_cancel] using this
  have := congrArg BitVec.toNat h'
  rwa [BitVec.toNat_ofNat, BitVec.toNat_ofNat, Nat.mod_eq_of_lt hi, Nat.mod_eq_of_lt hj] at this

/-- Each address written holds its byte, for fewer than 2^32 bytes. -/
theorem Memory.byte?_putBytes_of_lt {bs : List Byte} {m : Memory} {a : Word} (hl : bs.length ≤ 2 ^ 32) {i : Nat}
    (hi : i < bs.length) : Memory.byte? (Memory.putBytes m a bs) (a + BitVec.ofNat 32 i).toNat = some bs[i] := by
  induction bs generalizing m a i with
  | nil => simp at hi
  | cons b bs ih =>
    rw [Memory.putBytes]
    have hlen : bs.length < 2 ^ 32 := by simpa using hl
    cases i with
    | zero =>
      rw [Memory.byte?_putBytes_of_ne]
      · simp [Memory.byte?_put]
      · intro j hj e
        have e' : a + BitVec.ofNat 32 0 = a + BitVec.ofNat 32 (j + 1) := by
          rw [e, BitVec.add_assoc]; congr 1; simp [BitVec.ofNat_add, BitVec.add_comm]
        have := Word.add_ofNat_inj (by decide) (by omega) e'
        omega
    | succ j =>
      have := ih (m := Memory.put m a.toNat b) (a := a + 1) (by omega) (i := j) (by simpa using hi)
      rw [BitVec.add_assoc] at this
      simpa [BitVec.ofNat_add, BitVec.add_comm] using this

@[simp] theorem State.readByte_setPc (s : State) (t : Word) (a : Word) : (s.setPc t).readByte a = s.readByte a := rfl
@[simp] theorem State.readByte_advance (s : State) (n : Word) (a : Word) : (s.advance n).readByte a = s.readByte a := rfl
@[simp] theorem State.readByte_setCim (s : State) (c : CimState) (a : Word) : (s.setCim c).readByte a = s.readByte a := rfl
@[simp] theorem State.readByte_writeReg (s : State) (r : Reg) (v : Word) (a : Word) :
    (s.writeReg r v).readByte a = s.readByte a := by simp [State.readByte]

/-- What a byte reads depends on `mem` alone. -/
theorem State.readByte_congr {s t : State} (h : s.mem = t.mem) (a : Word) : s.readByte a = t.readByte a := by
  unfold State.readByte; rw [h]

/-- The number of bytes of a value. -/
@[simp] theorem length_valueBytes (n : Width) (v : n.Value) : (valueBytes n v).length = n.bytes := by simp [valueBytes]

theorem Width.bytes_le (n : Width) : n.bytes ≤ 4 := by cases n <;> decide

/-- A byte the store writes reads as its part of the value. -/
theorem State.readByte_store_of_lt (s : State) (n : Width) (addr : Word) (v : n.Value) {i : Nat} (hi : i < n.bytes) :
    (s.setMem (Memory.putBytes s.mem addr (valueBytes n v))).readByte (addr + BitVec.ofNat 32 i)
      = v.extractLsb' (8 * i) 8 := by
  have hlen : (valueBytes n v).length ≤ 2 ^ 32 := by have := n.bytes_le; simp; omega
  have := Memory.byte?_putBytes_of_lt (m := s.mem) (a := addr) hlen (i := i) (by simpa using hi)
  rw [State.readByte, State.setMem_mem, this]
  simp [valueBytes]

/-- A byte the store does not write reads as before. -/
theorem State.readByte_store_of_ne (s : State) (n : Width) (addr : Word) (v : n.Value) {x : Word}
    (h : ∀ i, i < n.bytes → x ≠ addr + BitVec.ofNat 32 i) :
    (s.setMem (Memory.putBytes s.mem addr (valueBytes n v))).readByte x = s.readByte x := by
  rw [State.readByte, State.setMem_mem, Memory.byte?_putBytes_of_ne (by simpa using h), State.readByte]

end Sys2Proof.Machine
end

