-- ==== Sys2Proof/Laws/Register.lean ====
section
/-! SUPPORT. The laws of the register file (10_state.md R12, R14). -/
namespace Sys2Proof.Machine

/-- Distinct registers other than `x0` have distinct places. -/
theorem regIndex_inj {r q : Reg} (hr : r ≠ 0) (hq : q ≠ 0) (h : r.toNat - 1 = q.toNat - 1) : r = q := by
  have hr' : r.toNat ≠ 0 := fun e => hr (BitVec.eq_of_toNat_eq (by simpa using e))
  have hq' : q.toNat ≠ 0 := fun e => hq (BitVec.eq_of_toNat_eq (by simpa using e))
  exact BitVec.eq_of_toNat_eq (by omega)

/-- What a register reads depends on `regs` alone. -/
theorem State.readReg_congr {s t : State} (h : s.regs = t.regs) (r : Reg) : s.readReg r = t.readReg r := by
  unfold State.readReg; rw [h]

@[simp] theorem State.readReg_setPc (s : State) (t : Word) (r : Reg) : (s.setPc t).readReg r = s.readReg r := rfl
@[simp] theorem State.readReg_advance (s : State) (n : Word) (r : Reg) : (s.advance n).readReg r = s.readReg r := rfl
@[simp] theorem State.readReg_setMem (s : State) (m : Memory) (r : Reg) : (s.setMem m).readReg r = s.readReg r := rfl
@[simp] theorem State.readReg_setCim (s : State) (c : CimState) (r : Reg) : (s.setCim c).readReg r = s.readReg r := rfl
@[simp] theorem State.readReg_setMemValid (s : State) (v : List Span) (r : Reg) :
    (s.setMemValid v).readReg r = s.readReg r := rfl

/-- Read after write, for every pair of registers, `x0` included: a register reads the value written to it unless it is
`x0`, and every other register reads as before. -/
theorem State.readReg_writeReg_eq_ite (s : State) (r q : Reg) (v : Word) :
    (s.writeReg r v).readReg q = if q = r ∧ r ≠ 0 then v else s.readReg q := by
  by_cases hr : r = 0
  · rw [State.writeReg, if_pos hr, if_neg fun h => h.2 hr]
  · by_cases hq : q = 0
    · rw [if_neg fun h : q = r ∧ r ≠ 0 => hr (h.1 ▸ hq), State.readReg, if_pos hq, State.readReg, if_pos hq]
    · rw [State.writeReg, if_neg hr, State.readReg, if_neg hq, Vector.getElem_set]
      by_cases e : q = r
      · subst e; rw [if_pos rfl, if_pos ⟨rfl, hr⟩]
      · rw [if_neg fun h => e (regIndex_inj hr hq h).symm, if_neg fun h => e h.1, State.readReg, if_neg hq]

/-- `x0` reads as 0. -/
@[simp] theorem State.readReg_zero (s : State) : s.readReg 0 = 0 := rfl

/-- A register other than the one written reads as before. -/
theorem State.readReg_writeReg_of_ne (s : State) {r q : Reg} (v : Word) (h : q ≠ r) :
    (s.writeReg r v).readReg q = s.readReg q := by rw [State.readReg_writeReg_eq_ite, if_neg fun e => h e.1]

/-- A register other than `x0` reads the value written to it. -/
theorem State.readReg_writeReg_self (s : State) {r : Reg} (v : Word) (h : r ≠ 0) : (s.writeReg r v).readReg r = v := by
  rw [State.readReg_writeReg_eq_ite, if_pos ⟨rfl, h⟩]

end Sys2Proof.Machine
end

