-- ==== Sys2Proof/Laws/Access.lean ====
section
/-! SUPPORT. What each shared operation can do, said once: the memory accesses (20_memory.md R44 to R48), fetch (R50, R51)
and the shapes of an instruction's effect. -/
namespace Sys2Proof.Machine

/-! ### Sequencing -/

@[simp] theorem andThen_next {α β : Type} (s : α) (f : α → Host.Outcome β Fault Refusal) : andThen (.next s) f = f s := rfl
@[simp] theorem andThen_fault {α β : Type} (e : Fault) (f : α → Host.Outcome β Fault Refusal) :
    andThen (.fault e) f = .fault e := rfl
@[simp] theorem andThen_refused {α β : Type} (e : Refusal) (f : α → Host.Outcome β Fault Refusal) :
    andThen (.refused e) f = .refused e := rfl

/-- A sequence that answers a next state went through one after another. -/
theorem andThen_eq_next {α β : Type} {r : Host.Outcome α Fault Refusal} {f : α → Host.Outcome β Fault Refusal} {t : β}
    (h : andThen r f = .next t) : ∃ s, r = .next s ∧ f s = .next t := by
  cases r with
  | next s => exact ⟨s, rfl, h⟩
  | fault e => cases h
  | refused e => cases h

/-! ### The accesses -/

/-- The three outcomes of `MemRead`. -/
theorem State.memRead_cases {s : State} {n : Width} {addr : Word} {r : Except Cause n.Value} (h : s.memRead n addr = r) :
    (aligned n addr = false ∧ r = .error .loadAddressMisaligned)
      ∨ (aligned n addr = true ∧ s.accessValid n addr = false ∧ r = .error .loadAccessFault)
      ∨ (aligned n addr = true ∧ s.accessValid n addr = true ∧ r = .ok (s.readValue n addr)) := by
  unfold State.memRead at h
  split at h
  · split at h
    · exact .inr (.inr ⟨‹_›, ‹_›, h.symm⟩)
    · exact .inr (.inl ⟨‹_›, Bool.eq_false_of_not_eq_true ‹_›, h.symm⟩)
  · exact .inl ⟨Bool.eq_false_of_not_eq_true ‹_›, h.symm⟩

/-- What `MemRead` answers when it answers a value. -/
theorem State.memRead_ok {s : State} {n : Width} {addr : Word} {v : n.Value} (h : s.memRead n addr = .ok v) :
    aligned n addr = true ∧ s.accessValid n addr = true ∧ v = s.readValue n addr := by
  rcases State.memRead_cases h with ⟨_, h⟩ | ⟨_, _, h⟩ | ⟨ha, hv, h⟩
  · cases h
  · cases h
  · cases h; exact ⟨ha, hv, rfl⟩

/-- The four outcomes of `MemWrite`. -/
theorem State.memWrite_cases {s : State} {n : Width} {addr : Word} {v : n.Value} {r : Result} (h : s.memWrite n addr v = r) :
    (aligned n addr = false ∧ r = .fault (.trapped .storeAddressMisaligned s.pc (some addr)))
      ∨ (aligned n addr = true ∧ s.accessValid n addr = false
          ∧ r = .fault (.trapped .storeAccessFault s.pc (some addr)))
      ∨ (aligned n addr = true ∧ s.accessValid n addr = true ∧ s.accessInCode n addr = true
          ∧ r = .refused (.codeRegionStore addr))
      ∨ (aligned n addr = true ∧ s.accessValid n addr = true ∧ s.accessInCode n addr = false
          ∧ r = .next (s.setMem (Memory.putBytes s.mem addr (valueBytes n v)))) := by
  unfold State.memWrite at h
  split at h
  · split at h
    · split at h
      · exact .inr (.inr (.inl ⟨‹_›, ‹_›, ‹_›, h.symm⟩))
      · exact .inr (.inr (.inr ⟨‹_›, ‹_›, Bool.eq_false_of_not_eq_true ‹_›, h.symm⟩))
    · exact .inr (.inl ⟨‹_›, Bool.eq_false_of_not_eq_true ‹_›, h.symm⟩)
  · exact .inl ⟨Bool.eq_false_of_not_eq_true ‹_›, h.symm⟩

/-- A listed map inside a set of addresses stays inside it when valid bytes are set. -/
theorem Memory.all_putBytes {p : Nat → Bool} {bs : List Byte} {m : Memory} {a : Word} (hm : (m.all fun c => p c.1) = true)
    (ha : ∀ i, i < bs.length → p (a + BitVec.ofNat 32 i).toNat = true) :
    ((Memory.putBytes m a bs).all fun c => p c.1) = true := by
  induction bs generalizing m a with
  | nil => exact hm
  | cons b bs ih =>
    refine ih (Memory.all_put hm (by simpa using ha 0 (by simp))) fun i hi => ?_
    have := ha (i + 1) (by simpa using hi)
    rwa [BitVec.ofNat_add, BitVec.add_comm (BitVec.ofNat 32 i), ← BitVec.add_assoc] at this

/-- Every byte of a valid access is valid. -/
theorem State.valid_of_accessValid {s : State} {n : Width} {addr : Word} (h : s.accessValid n addr = true) {i : Nat}
    (hi : i < n.bytes) : s.valid (addr + BitVec.ofNat 32 i) = true := by
  simp only [State.accessValid, accessBytes, List.all_map, List.all_eq_true, List.mem_range] at h
  exact h i hi

/-- No byte of an access outside `CODE_REGION` is in it. -/
theorem State.not_inCode_of_accessInCode {s : State} {n : Width} {addr : Word} (h : s.accessInCode n addr = false) {i : Nat}
    (hi : i < n.bytes) : s.inCode (addr + BitVec.ofNat 32 i) = false := by
  simp only [State.accessInCode, accessBytes, List.any_map, List.any_eq_false, List.mem_range] at h
  simpa using h i hi

/-- What `MemWrite` leaves when it answers a state: the canonical form and the bounds of memory. -/
theorem State.memWrite_next {s t : State} {n : Width} {addr : Word} {v : n.Value} (h : s.memWrite n addr v = .next t) :
    aligned n addr = true ∧ s.accessValid n addr = true ∧ s.accessInCode n addr = false
      ∧ t = s.setMem (Memory.putBytes s.mem addr (valueBytes n v)) := by
  rcases State.memWrite_cases h with ⟨_, h⟩ | ⟨_, _, h⟩ | ⟨_, _, _, h⟩ | ⟨ha, hv, hc, h⟩
  · cases h
  · cases h
  · cases h
  · cases h; exact ⟨ha, hv, hc, rfl⟩

/-- A store keeps the canonical form of memory. -/
theorem State.memWrite_wf {s t : State} {n : Width} {addr : Word} {v : n.Value} (h : s.memWrite n addr v = .next t)
    (hm : Memory.wf s.mem = true) : Memory.wf t.mem = true := by
  obtain ⟨-, -, -, rfl⟩ := State.memWrite_next h
  exact Memory.putBytes_wf hm

/-- A store keeps the listed bytes inside `MEM_VALID`. -/
theorem State.memWrite_memInValid {s t : State} {n : Width} {addr : Word} {v : n.Value}
    (h : s.memWrite n addr v = .next t) (hm : s.memInValid = true) : t.memInValid = true := by
  obtain ⟨-, hv, -, rfl⟩ := State.memWrite_next h
  exact Memory.all_putBytes hm fun i hi => State.valid_of_accessValid hv (by simpa using hi)

/-! ### The shapes -/

/-- `load` either completes, writing the extended value, or raises a load exception at the address. -/
theorem load_cases {n : Width} {ext : n.Value → Word} {rd : Reg} {addr len : Word} {s : State} {r : Result}
    (h : load n ext rd addr len s = r) :
    (aligned n addr = true ∧ s.accessValid n addr = true
        ∧ r = .next ((s.writeReg rd (ext (s.readValue n addr))).advance len))
      ∨ ∃ cause, (cause = .loadAddressMisaligned ∨ cause = .loadAccessFault)
          ∧ r = .fault (.trapped cause s.pc (some addr)) := by
  unfold load at h
  split at h
  · next v hv => obtain ⟨ha, hva, rfl⟩ := State.memRead_ok hv; exact .inl ⟨ha, hva, h.symm⟩
  · next cause hc =>
    refine .inr ⟨cause, ?_, h.symm⟩
    rcases State.memRead_cases hc with ⟨_, e⟩ | ⟨_, _, e⟩ | ⟨_, _, e⟩
    · cases e; exact .inl rfl
    · cases e; exact .inr rfl
    · cases e

/-- `store` either completes, or raises a store exception at the address, or is refused for `CODE_REGION`. -/
theorem store_cases {n : Width} {addr len : Word} {v : n.Value} {s : State} {r : Result}
    (h : store n addr v len s = r) :
    (aligned n addr = true ∧ s.accessValid n addr = true ∧ s.accessInCode n addr = false
        ∧ r = .next ((s.setMem (Memory.putBytes s.mem addr (valueBytes n v))).advance len))
      ∨ (∃ cause, (cause = .storeAddressMisaligned ∨ cause = .storeAccessFault)
          ∧ r = .fault (.trapped cause s.pc (some addr)))
      ∨ (s.accessInCode n addr = true ∧ r = .refused (.codeRegionStore addr)) := by
  unfold store at h
  rcases State.memWrite_cases (rfl : s.memWrite n addr v = _) with ⟨_, e⟩ | ⟨_, _, e⟩ | ⟨_, _, hc, e⟩ | ⟨ha, hv, hc, e⟩ <;>
    rw [e] at h
  · exact .inr (.inl ⟨_, .inl rfl, h.symm⟩)
  · exact .inr (.inl ⟨_, .inr rfl, h.symm⟩)
  · exact .inr (.inr ⟨hc, h.symm⟩)
  · exact .inl ⟨ha, hv, hc, h.symm⟩

/-- `branch` always completes and changes only `pc`. -/
theorem branch_eq (c : Bool) (off len : Word) (s : State) :
    branch c off len s = .next (s.setPc (if c then s.pc + off else s.pc + len)) := by
  cases c <;> rfl

/-! ### Fetch -/

/-- The outcomes of the fetch of one parcel. -/
theorem State.fetchParcel_cases {s : State} {a : Word} {r : Host.Outcome Half Fault Refusal} (h : s.fetchParcel a = r) :
    (s.parcelValid a = false ∧ r = .fault (.trapped .instructionAccessFault s.pc (some s.pc)))
      ∨ (s.parcelValid a = true ∧ s.parcelLaunched a = false ∧ r = .refused (.selfModifiedCode s.pc))
      ∨ (s.parcelValid a = true ∧ s.parcelLaunched a = true ∧ r = .next (s.readByte (a + 1) ++ s.readByte a)) := by
  unfold State.fetchParcel at h
  split at h
  · split at h
    · exact .inr (.inr ⟨‹_›, ‹_›, h.symm⟩)
    · exact .inr (.inl ⟨‹_›, Bool.eq_false_of_not_eq_true ‹_›, h.symm⟩)
  · exact .inl ⟨Bool.eq_false_of_not_eq_true ‹_›, h.symm⟩

/-- A valid parcel that is as launched is read. -/
theorem State.fetchParcel_next {s : State} {a : Word} (hv : s.parcelValid a = true) (hl : s.parcelLaunched a = true) :
    s.fetchParcel a = .next (s.readByte (a + 1) ++ s.readByte a) := by
  unfold State.fetchParcel
  rw [if_pos hv, if_pos hl]; rfl

/-- A valid parcel that was changed since launch is refused. -/
theorem State.fetchParcel_refused {s : State} {a : Word} (hv : s.parcelValid a = true) (hl : s.parcelLaunched a = false) :
    s.fetchParcel a = .refused (.selfModifiedCode s.pc) := by
  unfold State.fetchParcel
  rw [if_pos hv, hl]; rfl

/-- A parcel outside `MEM_VALID` faults. -/
theorem State.fetchParcel_fault {s : State} {a : Word} (hv : s.parcelValid a = false) :
    s.fetchParcel a = .fault (.trapped .instructionAccessFault s.pc (some s.pc)) := by
  unfold State.fetchParcel
  rw [hv]; rfl

/-- What a fetch read when it answers a word. -/
theorem State.fetch_next {s : State} {w : InstWord} (h : s.fetch = .next w) :
    (s.parcelValid s.pc = true ∧ s.parcelLaunched s.pc = true ∧ w = .half (s.readByte (s.pc + 1) ++ s.readByte s.pc))
      ∨ (s.parcelValid s.pc = true ∧ s.parcelLaunched s.pc = true ∧ s.parcelValid (s.pc + 2) = true
          ∧ s.parcelLaunched (s.pc + 2) = true
          ∧ w = .full ((s.readByte (s.pc + 2 + 1) ++ s.readByte (s.pc + 2)) ++
              (s.readByte (s.pc + 1) ++ s.readByte s.pc))) := by
  obtain ⟨p0, h0, h⟩ := andThen_eq_next h
  rcases State.fetchParcel_cases h0 with ⟨-, e⟩ | ⟨-, -, e⟩ | ⟨hv, hl, e⟩ <;> cases e
  split at h
  · obtain ⟨p1, h1, h⟩ := andThen_eq_next h
    rcases State.fetchParcel_cases h1 with ⟨-, e⟩ | ⟨-, -, e⟩ | ⟨hv', hl', e⟩ <;> cases e
    cases h; exact .inr ⟨hv, hl, hv', hl', rfl⟩
  · cases h; exact .inl ⟨hv, hl, rfl⟩

/-- How a fetch stops: an instruction access fault, or code that was changed since launch. -/
theorem State.fetch_cases (s : State) :
    (∃ w, s.fetch = .next w) ∨ s.fetch = .fault (.trapped .instructionAccessFault s.pc (some s.pc))
      ∨ s.fetch = .refused (.selfModifiedCode s.pc) := by
  unfold State.fetch
  rcases State.fetchParcel_cases (rfl : s.fetchParcel s.pc = _) with ⟨-, e⟩ | ⟨-, -, e⟩ | ⟨-, -, e⟩ <;> rw [e]
  · exact .inr (.inl rfl)
  · exact .inr (.inr rfl)
  · rw [andThen_next]
    split
    · rcases State.fetchParcel_cases (rfl : s.fetchParcel (s.pc + 2) = _) with ⟨-, e⟩ | ⟨-, -, e⟩ | ⟨-, -, e⟩ <;> rw [e]
      · exact .inr (.inl rfl)
      · exact .inr (.inr rfl)
      · exact .inl ⟨_, rfl⟩
    · exact .inl ⟨_, rfl⟩

/-- A parcel whose low two bits are not `11` is the whole instruction word. -/
theorem State.fetch_half {s : State} (hv : s.parcelValid s.pc = true) (hl : s.parcelLaunched s.pc = true)
    (hlow : (s.readByte (s.pc + 1) ++ s.readByte s.pc).extractLsb' 0 2 ≠ 0b11#2) :
    s.fetch = .next (.half (s.readByte (s.pc + 1) ++ s.readByte s.pc)) := by
  unfold State.fetch
  rw [State.fetchParcel_next hv hl, andThen_next, if_neg hlow]

/-- After a parcel whose low two bits are `11`, the fetch is that of the second parcel. -/
theorem State.fetch_second {s : State} (hv : s.parcelValid s.pc = true) (hl : s.parcelLaunched s.pc = true)
    (hlow : (s.readByte (s.pc + 1) ++ s.readByte s.pc).extractLsb' 0 2 = 0b11#2) :
    s.fetch = andThen (s.fetchParcel (s.pc + 2)) fun p1 => .next (.full (p1 ++ (s.readByte (s.pc + 1) ++ s.readByte s.pc))) := by
  unfold State.fetch
  rw [State.fetchParcel_next hv hl, andThen_next, if_pos hlow]

/-- Two parcels, the first with its low two bits `11`, are the instruction word. -/
theorem State.fetch_full {s : State} (hv : s.parcelValid s.pc = true) (hl : s.parcelLaunched s.pc = true)
    (hv' : s.parcelValid (s.pc + 2) = true) (hl' : s.parcelLaunched (s.pc + 2) = true)
    (hlow : (s.readByte (s.pc + 1) ++ s.readByte s.pc).extractLsb' 0 2 = 0b11#2) :
    s.fetch = .next (.full ((s.readByte (s.pc + 2 + 1) ++ s.readByte (s.pc + 2)) ++
      (s.readByte (s.pc + 1) ++ s.readByte s.pc))) := by
  rw [State.fetch_second hv hl hlow, State.fetchParcel_next hv' hl', andThen_next]

/-- A first parcel outside `MEM_VALID` faults. -/
theorem State.fetch_fault {s : State} (hv : s.parcelValid s.pc = false) :
    s.fetch = .fault (.trapped .instructionAccessFault s.pc (some s.pc)) := by
  unfold State.fetch
  rw [State.fetchParcel_fault hv, andThen_fault]

/-- A second parcel outside `MEM_VALID` faults. -/
theorem State.fetch_fault_second {s : State} (hv : s.parcelValid s.pc = true) (hl : s.parcelLaunched s.pc = true)
    (hv' : s.parcelValid (s.pc + 2) = false)
    (hlow : (s.readByte (s.pc + 1) ++ s.readByte s.pc).extractLsb' 0 2 = 0b11#2) :
    s.fetch = .fault (.trapped .instructionAccessFault s.pc (some s.pc)) := by
  rw [State.fetch_second hv hl hlow, State.fetchParcel_fault hv', andThen_fault]

/-- Whether a byte is as launched depends on what memory and the launch image list for it only. -/
theorem State.launched_congr {s t : State} {a : Word} (hm : Memory.byte? s.mem a.toNat = Memory.byte? t.mem a.toNat)
    (hi : s.params.image = t.params.image) : s.launched a = t.launched a := by
  simp only [State.launched, hm, hi]

/-- A machine just launched has every byte as launched. -/
@[simp] theorem State.launched_launch (l : Launch) (a : Word) : (State.launch l).launched a = true := by
  simp [State.launched, State.launch]

end Sys2Proof.Machine
end

