-- ==== Sys2Proof/Laws/Cim.lean ====
section
/-! SUPPORT. What each CIM operation does, said once (40_cim_and_multiply.md R123 to R127). -/
namespace Sys2Proof.Machine

@[simp] theorem forEach_nil {α σ : Type} (f : α → σ → Host.Outcome σ Fault Refusal) (s : σ) : forEach f [] s = .next s := rfl
@[simp] theorem forEach_cons {α σ : Type} (f : α → σ → Host.Outcome σ Fault Refusal) (x : α) (xs : List α) (s : σ) :
    forEach f (x :: xs) s = andThen (f x s) (forEach f xs) := rfl

/-- `vec4` holds `f c` at place `c`. -/
@[simp] theorem vec4_getElem {α : Type} (f : Fin 4 → α) (c : Fin 4) : (vec4 f)[c.val] = f c := by
  fin_cases c <;> rfl

/-- A cell after a WRITE action. -/
theorem programCorelet_getElem (k : Corelet) (rs wds : BitVec 4) (wd : Vector Byte 4) (p : Precision) (i c : Fin 4) :
    (programCorelet k rs wds wd p)[i.val][c.val] = if rs.getLsbD i && wds.getLsbD c then ⟨p, wd[c]⟩ else k[i][c] := by
  simp [programCorelet]

/-- A column output is the sum over the driven rows. -/
theorem columnSum_eq_sum (k : Corelet) (rs : BitVec 4) (c : Fin 4) :
    columnSum k rs c = ∑ i : Fin 4, if rs.getLsbD i then k[i][c].weight else 0 := by
  simp [columnSum, Fin.sum_univ_four]

/-- Several rows are selected exactly when two different ones are. -/
theorem severalRows_iff (rs : BitVec 4) :
    severalRows rs = true ↔ ∃ i j : Fin 4, i ≠ j ∧ rs.getLsbD i = true ∧ rs.getLsbD j = true := by
  revert rs; decide

/-- `one_hot(r)` selects one row. -/
@[simp] theorem severalRows_oneHot (r : Fin 4) : severalRows (oneHot r) = false := by
  fin_cases r <;> rfl

/-- A WRITE `DoA` with several rows selected is refused. -/
theorem doA_several {k : Fin 16} {s : State} (h : s.cim.fs.op = .write) (hr : severalRows s.cim.rs = true) :
    doA k s = .refused .cimSeveralRows := by
  simp [doA, h, hr]

/-- A WRITE `DoA` of at most one row programs its corelet. -/
theorem doA_write {k : Fin 16} {s : State} (h : s.cim.fs.op = .write) (hr : severalRows s.cim.rs = false) :
    doA k s = .next (s.setCim { s.cim with
      cells := s.cim.cells.set k (programCorelet s.cim.cells[k] s.cim.rs s.cim.wds s.cim.wd s.cim.fs.precision) }) := by
  simp [doA, h, hr]

/-- A forward READ `DoA` drives the columns. -/
theorem doA_forward {k : Fin 16} {s : State} (h : s.cim.fs.op = .read) (hm : s.cim.fs.mode = .forward) :
    doA k s = .next (s.setCim { s.cim with columns := vec4 (columnSum s.cim.cells[k] s.cim.rs) }) := by
  simp [doA, h, hm]

/-- A READ `DoA` in another mode is refused. -/
theorem doA_other {k : Fin 16} {s : State} (h : s.cim.fs.op = .read) (hm : s.cim.fs.mode ≠ .forward) :
    doA k s = .refused .cimModeUndescribed := by
  cases hmode : s.cim.fs.mode <;> simp_all [doA]

/-- Bit `i` of the row bits is bit `b` of input element `i`. -/
theorem rowBits_getLsbD (input : Vector Byte 4) (b : Nat) (i : Fin 4) :
    (rowBits input b).getLsbD i = (input[i] : Byte).getLsbD b := by
  have key : ∀ (x y z w : Bool) (j : Fin 4),
      (BitVec.ofBool w ++ BitVec.ofBool z ++ BitVec.ofBool y ++ BitVec.ofBool x : BitVec 4).getLsbD j
        = (#v[x, y, z, w] : Vector Bool 4)[j] := by decide
  rw [rowBits, key]
  fin_cases i <;> rfl

/-- Bit `i` of `one_hot(r)` is 1 exactly for `i = r`. -/
theorem oneHot_getLsbD (r i : Fin 4) : (oneHot r).getLsbD i = decide (i = r) := by
  fin_cases r <;> fin_cases i <;> rfl

end Sys2Proof.Machine
end

