-- ==== Sys2Proof/Laws/Encoding.lean ====
section
/-! SUPPORT. Fields of concatenated words: what the encoder put together, the decoder's cuts take apart (30_encoding.md R72,
R86). Use them as `simp (disch := decide) only [...]`. -/
namespace Sys2Proof

/-- A field inside the low part of a concatenation. -/
theorem extract_append_low {m n s l : Nat} (x : BitVec m) (y : BitVec n) (h : s + l ≤ n) :
    BitVec.extractLsb' (n := no_index (m + n)) s l (x ++ y) = y.extractLsb' s l := by
  ext i hi
  simp only [BitVec.getElem_extractLsb', BitVec.getLsbD_append]
  rw [if_pos (by omega)]

/-- A field inside the high part of a concatenation. -/
theorem extract_append_high {m n s l : Nat} (x : BitVec m) (y : BitVec n) (h : n ≤ s) :
    BitVec.extractLsb' (n := no_index (m + n)) s l (x ++ y) = x.extractLsb' (s - n) l := by
  ext i hi
  simp only [BitVec.getElem_extractLsb', BitVec.getLsbD_append]
  rw [if_neg (by omega), Nat.sub_add_comm h]

/-- A field that spans the two parts of a concatenation. -/
theorem extract_append_span {m n s l : Nat} (x : BitVec m) (y : BitVec n) (hs : s ≤ n) (h : n ≤ s + l) :
    BitVec.extractLsb' (n := no_index (m + n)) s l (x ++ y)
      = (x.extractLsb' 0 (s + l - n) ++ y.extractLsb' s (n - s)).cast (by omega) := by
  ext i hi
  simp only [BitVec.getElem_extractLsb', BitVec.getLsbD_append, BitVec.getElem_cast, BitVec.getElem_append]
  by_cases hi' : s + i < n
  · rw [if_pos hi', dif_pos (by omega)]
  · rw [if_neg hi', dif_neg (by omega)]; congr 1; omega

/-- A bit of the low part of a concatenation. -/
theorem bit_append_low {m n k : Nat} (x : BitVec m) (y : BitVec n) (h : k < n) :
    BitVec.getLsbD (w := no_index (m + n)) (x ++ y) k = y.getLsbD k := by rw [BitVec.getLsbD_append, if_pos h]

/-- A bit of the high part of a concatenation. -/
theorem bit_append_high {m n k : Nat} (x : BitVec m) (y : BitVec n) (h : n ≤ k) :
    BitVec.getLsbD (w := no_index (m + n)) (x ++ y) k = x.getLsbD (k - n) := by
  rw [BitVec.getLsbD_append, if_neg (by omega)]

/-- The field that is the whole vector. -/
theorem extract_all {n : Nat} (x : BitVec n) : x.extractLsb' 0 n = x := by simp

/-- A field of a field. -/
theorem extract_extract {n s l s' l' : Nat} (x : BitVec n) (h : s' + l' ≤ l) :
    (x.extractLsb' s l).extractLsb' s' l' = x.extractLsb' (s + s') l' := by
  ext i hi
  simp only [BitVec.getElem_extractLsb', BitVec.getLsbD_extractLsb']
  rw [decide_eq_true (by omega : s' + i < l), Bool.true_and, Nat.add_assoc]

/-- Two neighbouring fields make one. -/
theorem extract_append_extract {n s l k : Nat} (x : BitVec n) :
    x.extractLsb' (s + l) k ++ x.extractLsb' s l = x.extractLsb' s (k + l) := by
  ext i hi
  simp only [BitVec.getElem_append, BitVec.getElem_extractLsb']
  split
  · rfl
  · congr 1; omega

/-- A register field whose top bit is 0 names its register (R97). -/
theorem regField_ok {n lo : Nat} {w : BitVec n} (h : w.getLsbD (lo + 4) = false) :
    regField w lo = .ok (w.extractLsb' lo 4) := by unfold regField; rw [h]; rfl

/-- A register field whose top bit is 1 is rejected (R97). -/
theorem regField_error {n lo : Nat} {w : BitVec n} (h : w.getLsbD (lo + 4) = true) :
    regField w lo = .error .registerField := by unfold regField; rw [h]; rfl

/-- A register number as a field is 0 just for `x0`. -/
theorem reg5_eq_zero_iff (r : Reg) : reg5 r = 0 ↔ r = 0 := by revert r; decide

set_option linter.unusedSimpArgs false

/-! The fields of `encR`. -/

@[simp] theorem encR_op (f7 : BitVec 7) (rs2 rs1 : Reg) (f3 : BitVec 3) (rd : Reg) (op : BitVec 7) : (encR f7 rs2 rs1 f3 rd op).extractLsb' 0 7 = op := by
  unfold encR
  simp (disch := decide) only [extract_append_low, extract_append_high, reg5]
  exact extract_all _

@[simp] theorem encR_rd (f7 : BitVec 7) (rs2 rs1 : Reg) (f3 : BitVec 3) (rd : Reg) (op : BitVec 7) : (encR f7 rs2 rs1 f3 rd op).extractLsb' 7 4 = rd := by
  unfold encR
  simp (disch := decide) only [extract_append_low, extract_append_high, reg5]
  exact extract_all _

theorem encR_rd_top (f7 : BitVec 7) (rs2 rs1 : Reg) (f3 : BitVec 3) (rd : Reg) (op : BitVec 7) : (encR f7 rs2 rs1 f3 rd op).getLsbD 11 = false := by
  unfold encR
  simp (disch := decide) only [bit_append_low, bit_append_high, reg5]
  rfl

@[simp] theorem encR_f3 (f7 : BitVec 7) (rs2 rs1 : Reg) (f3 : BitVec 3) (rd : Reg) (op : BitVec 7) : (encR f7 rs2 rs1 f3 rd op).extractLsb' 12 3 = f3 := by
  unfold encR
  simp (disch := decide) only [extract_append_low, extract_append_high, reg5]
  exact extract_all _

@[simp] theorem encR_rs1 (f7 : BitVec 7) (rs2 rs1 : Reg) (f3 : BitVec 3) (rd : Reg) (op : BitVec 7) : (encR f7 rs2 rs1 f3 rd op).extractLsb' 15 4 = rs1 := by
  unfold encR
  simp (disch := decide) only [extract_append_low, extract_append_high, reg5]
  exact extract_all _

theorem encR_rs1_top (f7 : BitVec 7) (rs2 rs1 : Reg) (f3 : BitVec 3) (rd : Reg) (op : BitVec 7) : (encR f7 rs2 rs1 f3 rd op).getLsbD 19 = false := by
  unfold encR
  simp (disch := decide) only [bit_append_low, bit_append_high, reg5]
  rfl

@[simp] theorem encR_rs2 (f7 : BitVec 7) (rs2 rs1 : Reg) (f3 : BitVec 3) (rd : Reg) (op : BitVec 7) : (encR f7 rs2 rs1 f3 rd op).extractLsb' 20 4 = rs2 := by
  unfold encR
  simp (disch := decide) only [extract_append_low, extract_append_high, reg5]
  exact extract_all _

theorem encR_rs2_top (f7 : BitVec 7) (rs2 rs1 : Reg) (f3 : BitVec 3) (rd : Reg) (op : BitVec 7) : (encR f7 rs2 rs1 f3 rd op).getLsbD 24 = false := by
  unfold encR
  simp (disch := decide) only [bit_append_low, bit_append_high, reg5]
  rfl

@[simp] theorem encR_f7 (f7 : BitVec 7) (rs2 rs1 : Reg) (f3 : BitVec 3) (rd : Reg) (op : BitVec 7) : (encR f7 rs2 rs1 f3 rd op).extractLsb' 25 7 = f7 := by
  unfold encR
  simp (disch := decide) only [extract_append_low, extract_append_high, reg5]
  exact extract_all _

/-! The fields of `encI`. -/

@[simp] theorem encI_op (imm : BitVec 12) (rs1 : Reg) (f3 : BitVec 3) (rd : Reg) (op : BitVec 7) : (encI imm rs1 f3 rd op).extractLsb' 0 7 = op := by
  unfold encI
  simp (disch := decide) only [extract_append_low, extract_append_high, reg5]
  exact extract_all _

@[simp] theorem encI_rd (imm : BitVec 12) (rs1 : Reg) (f3 : BitVec 3) (rd : Reg) (op : BitVec 7) : (encI imm rs1 f3 rd op).extractLsb' 7 4 = rd := by
  unfold encI
  simp (disch := decide) only [extract_append_low, extract_append_high, reg5]
  exact extract_all _

theorem encI_rd_top (imm : BitVec 12) (rs1 : Reg) (f3 : BitVec 3) (rd : Reg) (op : BitVec 7) : (encI imm rs1 f3 rd op).getLsbD 11 = false := by
  unfold encI
  simp (disch := decide) only [bit_append_low, bit_append_high, reg5]
  rfl

@[simp] theorem encI_f3 (imm : BitVec 12) (rs1 : Reg) (f3 : BitVec 3) (rd : Reg) (op : BitVec 7) : (encI imm rs1 f3 rd op).extractLsb' 12 3 = f3 := by
  unfold encI
  simp (disch := decide) only [extract_append_low, extract_append_high, reg5]
  exact extract_all _

@[simp] theorem encI_rs1 (imm : BitVec 12) (rs1 : Reg) (f3 : BitVec 3) (rd : Reg) (op : BitVec 7) : (encI imm rs1 f3 rd op).extractLsb' 15 4 = rs1 := by
  unfold encI
  simp (disch := decide) only [extract_append_low, extract_append_high, reg5]
  exact extract_all _

theorem encI_rs1_top (imm : BitVec 12) (rs1 : Reg) (f3 : BitVec 3) (rd : Reg) (op : BitVec 7) : (encI imm rs1 f3 rd op).getLsbD 19 = false := by
  unfold encI
  simp (disch := decide) only [bit_append_low, bit_append_high, reg5]
  rfl

@[simp] theorem encI_imm (imm : BitVec 12) (rs1 : Reg) (f3 : BitVec 3) (rd : Reg) (op : BitVec 7) : (encI imm rs1 f3 rd op).extractLsb' 20 12 = imm := by
  unfold encI
  simp (disch := decide) only [extract_append_low, extract_append_high, reg5]
  exact extract_all _

/-! The fields of `encSh`. -/

@[simp] theorem encSh_op (f7 : BitVec 7) (shamt : BitVec 5) (rs1 : Reg) (f3 : BitVec 3) (rd : Reg) (op : BitVec 7) : (encSh f7 shamt rs1 f3 rd op).extractLsb' 0 7 = op := by
  unfold encSh
  simp (disch := decide) only [extract_append_low, extract_append_high, reg5]
  exact extract_all _

@[simp] theorem encSh_rd (f7 : BitVec 7) (shamt : BitVec 5) (rs1 : Reg) (f3 : BitVec 3) (rd : Reg) (op : BitVec 7) : (encSh f7 shamt rs1 f3 rd op).extractLsb' 7 4 = rd := by
  unfold encSh
  simp (disch := decide) only [extract_append_low, extract_append_high, reg5]
  exact extract_all _

theorem encSh_rd_top (f7 : BitVec 7) (shamt : BitVec 5) (rs1 : Reg) (f3 : BitVec 3) (rd : Reg) (op : BitVec 7) : (encSh f7 shamt rs1 f3 rd op).getLsbD 11 = false := by
  unfold encSh
  simp (disch := decide) only [bit_append_low, bit_append_high, reg5]
  rfl

@[simp] theorem encSh_f3 (f7 : BitVec 7) (shamt : BitVec 5) (rs1 : Reg) (f3 : BitVec 3) (rd : Reg) (op : BitVec 7) : (encSh f7 shamt rs1 f3 rd op).extractLsb' 12 3 = f3 := by
  unfold encSh
  simp (disch := decide) only [extract_append_low, extract_append_high, reg5]
  exact extract_all _

@[simp] theorem encSh_rs1 (f7 : BitVec 7) (shamt : BitVec 5) (rs1 : Reg) (f3 : BitVec 3) (rd : Reg) (op : BitVec 7) : (encSh f7 shamt rs1 f3 rd op).extractLsb' 15 4 = rs1 := by
  unfold encSh
  simp (disch := decide) only [extract_append_low, extract_append_high, reg5]
  exact extract_all _

theorem encSh_rs1_top (f7 : BitVec 7) (shamt : BitVec 5) (rs1 : Reg) (f3 : BitVec 3) (rd : Reg) (op : BitVec 7) : (encSh f7 shamt rs1 f3 rd op).getLsbD 19 = false := by
  unfold encSh
  simp (disch := decide) only [bit_append_low, bit_append_high, reg5]
  rfl

@[simp] theorem encSh_shamt (f7 : BitVec 7) (shamt : BitVec 5) (rs1 : Reg) (f3 : BitVec 3) (rd : Reg) (op : BitVec 7) : (encSh f7 shamt rs1 f3 rd op).extractLsb' 20 5 = shamt := by
  unfold encSh
  simp (disch := decide) only [extract_append_low, extract_append_high, reg5]
  exact extract_all _

@[simp] theorem encSh_f7 (f7 : BitVec 7) (shamt : BitVec 5) (rs1 : Reg) (f3 : BitVec 3) (rd : Reg) (op : BitVec 7) : (encSh f7 shamt rs1 f3 rd op).extractLsb' 25 7 = f7 := by
  unfold encSh
  simp (disch := decide) only [extract_append_low, extract_append_high, reg5]
  exact extract_all _

/-! The fields of `encS`. -/

@[simp] theorem encS_op (imm : BitVec 12) (rs2 rs1 : Reg) (f3 : BitVec 3) (op : BitVec 7) : (encS imm rs2 rs1 f3 op).extractLsb' 0 7 = op := by
  unfold encS
  simp (disch := decide) only [extract_append_low, extract_append_high, reg5]
  exact extract_all _

@[simp] theorem encS_f3 (imm : BitVec 12) (rs2 rs1 : Reg) (f3 : BitVec 3) (op : BitVec 7) : (encS imm rs2 rs1 f3 op).extractLsb' 12 3 = f3 := by
  unfold encS
  simp (disch := decide) only [extract_append_low, extract_append_high, reg5]
  exact extract_all _

@[simp] theorem encS_rs1 (imm : BitVec 12) (rs2 rs1 : Reg) (f3 : BitVec 3) (op : BitVec 7) : (encS imm rs2 rs1 f3 op).extractLsb' 15 4 = rs1 := by
  unfold encS
  simp (disch := decide) only [extract_append_low, extract_append_high, reg5]
  exact extract_all _

theorem encS_rs1_top (imm : BitVec 12) (rs2 rs1 : Reg) (f3 : BitVec 3) (op : BitVec 7) : (encS imm rs2 rs1 f3 op).getLsbD 19 = false := by
  unfold encS
  simp (disch := decide) only [bit_append_low, bit_append_high, reg5]
  rfl

@[simp] theorem encS_rs2 (imm : BitVec 12) (rs2 rs1 : Reg) (f3 : BitVec 3) (op : BitVec 7) : (encS imm rs2 rs1 f3 op).extractLsb' 20 4 = rs2 := by
  unfold encS
  simp (disch := decide) only [extract_append_low, extract_append_high, reg5]
  exact extract_all _

theorem encS_rs2_top (imm : BitVec 12) (rs2 rs1 : Reg) (f3 : BitVec 3) (op : BitVec 7) : (encS imm rs2 rs1 f3 op).getLsbD 24 = false := by
  unfold encS
  simp (disch := decide) only [bit_append_low, bit_append_high, reg5]
  rfl

/-! The fields of `encB`. -/

@[simp] theorem encB_op (imm : BitVec 12) (rs2 rs1 : Reg) (f3 : BitVec 3) (op : BitVec 7) : (encB imm rs2 rs1 f3 op).extractLsb' 0 7 = op := by
  unfold encB
  simp (disch := decide) only [extract_append_low, extract_append_high, reg5]
  exact extract_all _

@[simp] theorem encB_f3 (imm : BitVec 12) (rs2 rs1 : Reg) (f3 : BitVec 3) (op : BitVec 7) : (encB imm rs2 rs1 f3 op).extractLsb' 12 3 = f3 := by
  unfold encB
  simp (disch := decide) only [extract_append_low, extract_append_high, reg5]
  exact extract_all _

@[simp] theorem encB_rs1 (imm : BitVec 12) (rs2 rs1 : Reg) (f3 : BitVec 3) (op : BitVec 7) : (encB imm rs2 rs1 f3 op).extractLsb' 15 4 = rs1 := by
  unfold encB
  simp (disch := decide) only [extract_append_low, extract_append_high, reg5]
  exact extract_all _

theorem encB_rs1_top (imm : BitVec 12) (rs2 rs1 : Reg) (f3 : BitVec 3) (op : BitVec 7) : (encB imm rs2 rs1 f3 op).getLsbD 19 = false := by
  unfold encB
  simp (disch := decide) only [bit_append_low, bit_append_high, reg5]
  rfl

@[simp] theorem encB_rs2 (imm : BitVec 12) (rs2 rs1 : Reg) (f3 : BitVec 3) (op : BitVec 7) : (encB imm rs2 rs1 f3 op).extractLsb' 20 4 = rs2 := by
  unfold encB
  simp (disch := decide) only [extract_append_low, extract_append_high, reg5]
  exact extract_all _

theorem encB_rs2_top (imm : BitVec 12) (rs2 rs1 : Reg) (f3 : BitVec 3) (op : BitVec 7) : (encB imm rs2 rs1 f3 op).getLsbD 24 = false := by
  unfold encB
  simp (disch := decide) only [bit_append_low, bit_append_high, reg5]
  rfl

/-! The fields of `encU`. -/

@[simp] theorem encU_op (imm : BitVec 20) (rd : Reg) (op : BitVec 7) : (encU imm rd op).extractLsb' 0 7 = op := by
  unfold encU
  simp (disch := decide) only [extract_append_low, extract_append_high, reg5]
  exact extract_all _

@[simp] theorem encU_rd (imm : BitVec 20) (rd : Reg) (op : BitVec 7) : (encU imm rd op).extractLsb' 7 4 = rd := by
  unfold encU
  simp (disch := decide) only [extract_append_low, extract_append_high, reg5]
  exact extract_all _

theorem encU_rd_top (imm : BitVec 20) (rd : Reg) (op : BitVec 7) : (encU imm rd op).getLsbD 11 = false := by
  unfold encU
  simp (disch := decide) only [bit_append_low, bit_append_high, reg5]
  rfl

@[simp] theorem encU_imm (imm : BitVec 20) (rd : Reg) (op : BitVec 7) : (encU imm rd op).extractLsb' 12 20 = imm := by
  unfold encU
  simp (disch := decide) only [extract_append_low, extract_append_high, reg5]
  exact extract_all _

/-! The fields of `encCi`. -/

@[simp] theorem encCi_q (f3 : BitVec 3) (b12 : BitVec 1) (mid lo : BitVec 5) (q : BitVec 2) : (encCi f3 b12 mid lo q).extractLsb' 0 2 = q := by
  unfold encCi
  simp (disch := decide) only [extract_append_low, extract_append_high, reg5]
  exact extract_all _

@[simp] theorem encCi_lo (f3 : BitVec 3) (b12 : BitVec 1) (mid lo : BitVec 5) (q : BitVec 2) : (encCi f3 b12 mid lo q).extractLsb' 2 5 = lo := by
  unfold encCi
  simp (disch := decide) only [extract_append_low, extract_append_high, reg5]
  exact extract_all _

@[simp] theorem encCi_mid (f3 : BitVec 3) (b12 : BitVec 1) (mid lo : BitVec 5) (q : BitVec 2) : (encCi f3 b12 mid lo q).extractLsb' 7 5 = mid := by
  unfold encCi
  simp (disch := decide) only [extract_append_low, extract_append_high, reg5]
  exact extract_all _

@[simp] theorem encCi_b12 (f3 : BitVec 3) (b12 : BitVec 1) (mid lo : BitVec 5) (q : BitVec 2) : (encCi f3 b12 mid lo q).extractLsb' 12 1 = b12 := by
  unfold encCi
  simp (disch := decide) only [extract_append_low, extract_append_high, reg5]
  exact extract_all _

@[simp] theorem encCi_f3 (f3 : BitVec 3) (b12 : BitVec 1) (mid lo : BitVec 5) (q : BitVec 2) : (encCi f3 b12 mid lo q).extractLsb' 13 3 = f3 := by
  unfold encCi
  simp (disch := decide) only [extract_append_low, extract_append_high, reg5]
  exact extract_all _

theorem encCi_bit12 (f3 : BitVec 3) (b12 : BitVec 1) (mid lo : BitVec 5) (q : BitVec 2) : (encCi f3 b12 mid lo q).getLsbD 12 = b12.getLsbD 0 := by
  unfold encCi
  simp (disch := decide) only [bit_append_low, bit_append_high, reg5]

theorem encCi_mid_top (f3 : BitVec 3) (b12 : BitVec 1) (mid lo : BitVec 5) (q : BitVec 2) : (encCi f3 b12 mid lo q).getLsbD 11 = mid.getLsbD 4 := by
  unfold encCi
  simp (disch := decide) only [bit_append_low, bit_append_high, reg5]

theorem encCi_lo_top (f3 : BitVec 3) (b12 : BitVec 1) (mid lo : BitVec 5) (q : BitVec 2) : (encCi f3 b12 mid lo q).getLsbD 6 = lo.getLsbD 4 := by
  unfold encCi
  simp (disch := decide) only [bit_append_low, bit_append_high, reg5]

@[simp] theorem encCi_midReg (f3 : BitVec 3) (b12 : BitVec 1) (mid lo : BitVec 5) (q : BitVec 2) : (encCi f3 b12 mid lo q).extractLsb' 7 4 = mid.extractLsb' 0 4 := by
  unfold encCi
  simp (disch := decide) only [extract_append_low, extract_append_high]

@[simp] theorem encCi_loReg (f3 : BitVec 3) (b12 : BitVec 1) (mid lo : BitVec 5) (q : BitVec 2) : (encCi f3 b12 mid lo q).extractLsb' 2 4 = lo.extractLsb' 0 4 := by
  unfold encCi
  simp (disch := decide) only [extract_append_low, extract_append_high]

/-! The fields of `encCb`. -/

@[simp] theorem encCb_q (b12 : BitVec 1) (sel : BitVec 2) (rd : CReg) (lo : BitVec 5) : (encCb b12 sel rd lo).extractLsb' 0 2 = 0b01#2 := by
  unfold encCb
  simp (disch := decide) only [extract_append_low, extract_append_high, reg5]
  exact extract_all _

@[simp] theorem encCb_lo (b12 : BitVec 1) (sel : BitVec 2) (rd : CReg) (lo : BitVec 5) : (encCb b12 sel rd lo).extractLsb' 2 5 = lo := by
  unfold encCb
  simp (disch := decide) only [extract_append_low, extract_append_high, reg5]
  exact extract_all _

@[simp] theorem encCb_rd (b12 : BitVec 1) (sel : BitVec 2) (rd : CReg) (lo : BitVec 5) : (encCb b12 sel rd lo).extractLsb' 7 3 = rd := by
  unfold encCb
  simp (disch := decide) only [extract_append_low, extract_append_high, reg5]
  exact extract_all _

@[simp] theorem encCb_sel (b12 : BitVec 1) (sel : BitVec 2) (rd : CReg) (lo : BitVec 5) : (encCb b12 sel rd lo).extractLsb' 10 2 = sel := by
  unfold encCb
  simp (disch := decide) only [extract_append_low, extract_append_high, reg5]
  exact extract_all _

@[simp] theorem encCb_b12 (b12 : BitVec 1) (sel : BitVec 2) (rd : CReg) (lo : BitVec 5) : (encCb b12 sel rd lo).extractLsb' 12 1 = b12 := by
  unfold encCb
  simp (disch := decide) only [extract_append_low, extract_append_high, reg5]
  exact extract_all _

@[simp] theorem encCb_f3 (b12 : BitVec 1) (sel : BitVec 2) (rd : CReg) (lo : BitVec 5) : (encCb b12 sel rd lo).extractLsb' 13 3 = 0b100#3 := by
  unfold encCb
  simp (disch := decide) only [extract_append_low, extract_append_high, reg5]
  exact extract_all _

theorem encCb_bit12 (b12 : BitVec 1) (sel : BitVec 2) (rd : CReg) (lo : BitVec 5) : (encCb b12 sel rd lo).getLsbD 12 = b12.getLsbD 0 := by
  unfold encCb
  simp (disch := decide) only [bit_append_low, bit_append_high, reg5]

@[simp] theorem encCb_loReg (b12 : BitVec 1) (sel : BitVec 2) (rd : CReg) (lo : BitVec 5) : (encCb b12 sel rd lo).extractLsb' 2 3 = lo.extractLsb' 0 3 := by
  unfold encCb
  simp (disch := decide) only [extract_append_low, extract_append_high]

@[simp] theorem encCb_loOp (b12 : BitVec 1) (sel : BitVec 2) (rd : CReg) (lo : BitVec 5) : (encCb b12 sel rd lo).extractLsb' 5 2 = lo.extractLsb' 3 2 := by
  unfold encCb
  simp (disch := decide) only [extract_append_low, extract_append_high]

/-! The fields of `encCl`. -/

@[simp] theorem encCl_q (f3 : BitVec 3) (u : BitVec 5) (rs1 r : CReg) : (encCl f3 u rs1 r).extractLsb' 0 2 = 0b00#2 := by
  unfold encCl
  simp (disch := decide) only [extract_append_low, extract_append_high, reg5]
  exact extract_all _

@[simp] theorem encCl_r (f3 : BitVec 3) (u : BitVec 5) (rs1 r : CReg) : (encCl f3 u rs1 r).extractLsb' 2 3 = r := by
  unfold encCl
  simp (disch := decide) only [extract_append_low, extract_append_high, reg5]
  exact extract_all _

@[simp] theorem encCl_rs1 (f3 : BitVec 3) (u : BitVec 5) (rs1 r : CReg) : (encCl f3 u rs1 r).extractLsb' 7 3 = rs1 := by
  unfold encCl
  simp (disch := decide) only [extract_append_low, extract_append_high, reg5]
  exact extract_all _

@[simp] theorem encCl_f3 (f3 : BitVec 3) (u : BitVec 5) (rs1 r : CReg) : (encCl f3 u rs1 r).extractLsb' 13 3 = f3 := by
  unfold encCl
  simp (disch := decide) only [extract_append_low, extract_append_high, reg5]
  exact extract_all _

/-! The fields of `encSlot`. -/

@[simp] theorem encSlot_q (f3 : BitVec 3) (bits : BitVec 11) (q : BitVec 2) : (encSlot f3 bits q).extractLsb' 0 2 = q := by
  unfold encSlot
  simp (disch := decide) only [extract_append_low, extract_append_high, reg5]
  exact extract_all _

@[simp] theorem encSlot_bits (f3 : BitVec 3) (bits : BitVec 11) (q : BitVec 2) : (encSlot f3 bits q).extractLsb' 2 11 = bits := by
  unfold encSlot
  simp (disch := decide) only [extract_append_low, extract_append_high, reg5]
  exact extract_all _

@[simp] theorem encSlot_f3 (f3 : BitVec 3) (bits : BitVec 11) (q : BitVec 2) : (encSlot f3 bits q).extractLsb' 13 3 = f3 := by
  unfold encSlot
  simp (disch := decide) only [extract_append_low, extract_append_high, reg5]
  exact extract_all _

/-! The fields of `encCiw`. -/

@[simp] theorem encCiw_q (bits : BitVec 8) (rd : CReg) : (encCiw bits rd).extractLsb' 0 2 = 0b00#2 := by
  unfold encCiw
  simp (disch := decide) only [extract_append_low, extract_append_high, reg5]
  exact extract_all _

@[simp] theorem encCiw_f3 (bits : BitVec 8) (rd : CReg) : (encCiw bits rd).extractLsb' 13 3 = 0b000#3 := by
  unfold encCiw
  simp (disch := decide) only [extract_append_low, extract_append_high, reg5]
  exact extract_all _

@[simp] theorem encCiw_rd (bits : BitVec 8) (rd : CReg) : (encCiw bits rd).extractLsb' 2 3 = rd := by
  unfold encCiw
  simp (disch := decide) only [extract_append_low, extract_append_high, reg5]
  exact extract_all _

@[simp] theorem encCiw_bits (bits : BitVec 8) (rd : CReg) : (encCiw bits rd).extractLsb' 5 8 = bits := by
  unfold encCiw
  simp (disch := decide) only [extract_append_low, extract_append_high, reg5]
  exact extract_all _

/-! The fields of `encCa`. -/

@[simp] theorem encCa_q (sel : BitVec 2) (rd rs2 : CReg) : (encCa sel rd rs2).extractLsb' 0 2 = 0b01#2 := by
  unfold encCa
  simp (disch := decide) only [extract_append_low, extract_append_high, reg5]
  exact extract_all _

@[simp] theorem encCa_f3 (sel : BitVec 2) (rd rs2 : CReg) : (encCa sel rd rs2).extractLsb' 13 3 = 0b100#3 := by
  unfold encCa
  simp (disch := decide) only [extract_append_low, extract_append_high, reg5]
  rfl

@[simp] theorem encCa_rs2 (sel : BitVec 2) (rd rs2 : CReg) : (encCa sel rd rs2).extractLsb' 2 3 = rs2 := by
  unfold encCa
  simp (disch := decide) only [extract_append_low, extract_append_high, reg5]
  exact extract_all _

@[simp] theorem encCa_rd (sel : BitVec 2) (rd rs2 : CReg) : (encCa sel rd rs2).extractLsb' 7 3 = rd := by
  unfold encCa
  simp (disch := decide) only [extract_append_low, extract_append_high, reg5]
  exact extract_all _

@[simp] theorem encCa_sel (sel : BitVec 2) (rd rs2 : CReg) : (encCa sel rd rs2).extractLsb' 5 2 = sel := by
  unfold encCa
  simp (disch := decide) only [extract_append_low, extract_append_high, reg5]
  exact extract_all _

@[simp] theorem encCa_group (sel : BitVec 2) (rd rs2 : CReg) : (encCa sel rd rs2).extractLsb' 10 2 = 0b11#2 := by
  unfold encCa
  simp (disch := decide) only [extract_append_low, extract_append_high, reg5]
  rfl

theorem encCa_bit12 (sel : BitVec 2) (rd rs2 : CReg) : (encCa sel rd rs2).getLsbD 12 = false := by
  unfold encCa
  simp (disch := decide) only [bit_append_low, bit_append_high, reg5]
  rfl

/-! The fields of `encCbr`. -/

@[simp] theorem encCbr_q (f3 : BitVec 3) (k : BitVec 8) (rs1 : CReg) : (encCbr f3 k rs1).extractLsb' 0 2 = 0b01#2 := by
  unfold encCbr
  simp (disch := decide) only [extract_append_low, extract_append_high, reg5]
  exact extract_all _

@[simp] theorem encCbr_f3 (f3 : BitVec 3) (k : BitVec 8) (rs1 : CReg) : (encCbr f3 k rs1).extractLsb' 13 3 = f3 := by
  unfold encCbr
  simp (disch := decide) only [extract_append_low, extract_append_high, reg5]
  exact extract_all _

@[simp] theorem encCbr_rs1 (f3 : BitVec 3) (k : BitVec 8) (rs1 : CReg) : (encCbr f3 k rs1).extractLsb' 7 3 = rs1 := by
  unfold encCbr
  simp (disch := decide) only [extract_append_low, extract_append_high, reg5]
  exact extract_all _

/-! The fields of `encCss`. -/

@[simp] theorem encCss_q (uimm : BitVec 6) (rs2 : Reg) : (encCss uimm rs2).extractLsb' 0 2 = 0b10#2 := by
  unfold encCss
  simp (disch := decide) only [extract_append_low, extract_append_high, reg5]
  exact extract_all _

@[simp] theorem encCss_f3 (uimm : BitVec 6) (rs2 : Reg) : (encCss uimm rs2).extractLsb' 13 3 = 0b110#3 := by
  unfold encCss
  simp (disch := decide) only [extract_append_low, extract_append_high, reg5]
  exact extract_all _

@[simp] theorem encCss_rs2 (uimm : BitVec 6) (rs2 : Reg) : (encCss uimm rs2).extractLsb' 2 4 = rs2 := by
  unfold encCss
  simp (disch := decide) only [extract_append_low, extract_append_high, reg5]
  exact extract_all _

theorem encCss_rs2_top (uimm : BitVec 6) (rs2 : Reg) : (encCss uimm rs2).getLsbD 6 = false := by
  unfold encCss
  simp (disch := decide) only [bit_append_low, bit_append_high, reg5]
  rfl

@[simp] theorem encCa_getElem12 (sel : BitVec 2) (rd rs2 : CReg) : (encCa sel rd rs2)[12] = false := encCa_bit12 sel rd rs2

@[simp] theorem regField_encCss (uimm : BitVec 6) (rs2 : Reg) : regField (encCss uimm rs2) 2 = .ok rs2 := by
  rw [regField_ok (encCss_rs2_top uimm rs2), encCss_rs2]

/-! The register fields of the 32-bit formats. -/

@[simp] theorem regField_encR_rd (f7 : BitVec 7) (rs2 rs1 : Reg) (f3 : BitVec 3) (rd : Reg) (op : BitVec 7) : regField (encR f7 rs2 rs1 f3 rd op) 7 = .ok rd := by
  rw [regField_ok (encR_rd_top f7 rs2 rs1 f3 rd op), encR_rd]

@[simp] theorem regField_encI_rd (imm : BitVec 12) (rs1 : Reg) (f3 : BitVec 3) (rd : Reg) (op : BitVec 7) : regField (encI imm rs1 f3 rd op) 7 = .ok rd := by
  rw [regField_ok (encI_rd_top imm rs1 f3 rd op), encI_rd]

@[simp] theorem regField_encSh_rd (f7 : BitVec 7) (shamt : BitVec 5) (rs1 : Reg) (f3 : BitVec 3) (rd : Reg) (op : BitVec 7) : regField (encSh f7 shamt rs1 f3 rd op) 7 = .ok rd := by
  rw [regField_ok (encSh_rd_top f7 shamt rs1 f3 rd op), encSh_rd]

@[simp] theorem regField_encU_rd (imm : BitVec 20) (rd : Reg) (op : BitVec 7) : regField (encU imm rd op) 7 = .ok rd := by
  rw [regField_ok (encU_rd_top imm rd op), encU_rd]

@[simp] theorem regField_encR_rs1 (f7 : BitVec 7) (rs2 rs1 : Reg) (f3 : BitVec 3) (rd : Reg) (op : BitVec 7) : regField (encR f7 rs2 rs1 f3 rd op) 15 = .ok rs1 := by
  rw [regField_ok (encR_rs1_top f7 rs2 rs1 f3 rd op), encR_rs1]

@[simp] theorem regField_encI_rs1 (imm : BitVec 12) (rs1 : Reg) (f3 : BitVec 3) (rd : Reg) (op : BitVec 7) : regField (encI imm rs1 f3 rd op) 15 = .ok rs1 := by
  rw [regField_ok (encI_rs1_top imm rs1 f3 rd op), encI_rs1]

@[simp] theorem regField_encSh_rs1 (f7 : BitVec 7) (shamt : BitVec 5) (rs1 : Reg) (f3 : BitVec 3) (rd : Reg) (op : BitVec 7) : regField (encSh f7 shamt rs1 f3 rd op) 15 = .ok rs1 := by
  rw [regField_ok (encSh_rs1_top f7 shamt rs1 f3 rd op), encSh_rs1]

@[simp] theorem regField_encS_rs1 (imm : BitVec 12) (rs2 rs1 : Reg) (f3 : BitVec 3) (op : BitVec 7) : regField (encS imm rs2 rs1 f3 op) 15 = .ok rs1 := by
  rw [regField_ok (encS_rs1_top imm rs2 rs1 f3 op), encS_rs1]

@[simp] theorem regField_encB_rs1 (imm : BitVec 12) (rs2 rs1 : Reg) (f3 : BitVec 3) (op : BitVec 7) : regField (encB imm rs2 rs1 f3 op) 15 = .ok rs1 := by
  rw [regField_ok (encB_rs1_top imm rs2 rs1 f3 op), encB_rs1]

@[simp] theorem regField_encR_rs2 (f7 : BitVec 7) (rs2 rs1 : Reg) (f3 : BitVec 3) (rd : Reg) (op : BitVec 7) : regField (encR f7 rs2 rs1 f3 rd op) 20 = .ok rs2 := by
  rw [regField_ok (encR_rs2_top f7 rs2 rs1 f3 rd op), encR_rs2]

@[simp] theorem regField_encS_rs2 (imm : BitVec 12) (rs2 rs1 : Reg) (f3 : BitVec 3) (op : BitVec 7) : regField (encS imm rs2 rs1 f3 op) 20 = .ok rs2 := by
  rw [regField_ok (encS_rs2_top imm rs2 rs1 f3 op), encS_rs2]

@[simp] theorem regField_encB_rs2 (imm : BitVec 12) (rs2 rs1 : Reg) (f3 : BitVec 3) (op : BitVec 7) : regField (encB imm rs2 rs1 f3 op) 20 = .ok rs2 := by
  rw [regField_ok (encB_rs2_top imm rs2 rs1 f3 op), encB_rs2]

/-! The register fields and the bit 12 of the compressed formats. -/

@[simp] theorem regField_encCi_mid (f3 : BitVec 3) (b12 : BitVec 1) (r : Reg) (lo : BitVec 5) (q : BitVec 2) :
    regField (encCi f3 b12 (reg5 r) lo q) 7 = .ok r := by
  have h : (reg5 r).getLsbD 4 = false := by revert r; decide
  rw [regField_ok ((encCi_mid_top ..).trans h), encCi_midReg]
  revert r; decide

@[simp] theorem regField_encCi_lo (f3 : BitVec 3) (b12 : BitVec 1) (mid : BitVec 5) (r : Reg) (q : BitVec 2) :
    regField (encCi f3 b12 mid (reg5 r) q) 2 = .ok r := by
  have h : (reg5 r).getLsbD 4 = false := by revert r; decide
  rw [regField_ok ((encCi_lo_top ..).trans h), encCi_loReg]
  revert r; decide

@[simp] theorem regField_encCi_mid_zero (f3 : BitVec 3) (b12 : BitVec 1) (lo : BitVec 5) (q : BitVec 2) :
    regField (encCi f3 b12 0#5 lo q) 7 = .ok 0 := regField_encCi_mid f3 b12 0 lo q

@[simp] theorem regField_encCi_lo_zero (f3 : BitVec 3) (b12 : BitVec 1) (mid : BitVec 5) (q : BitVec 2) :
    regField (encCi f3 b12 mid 0#5 q) 2 = .ok 0 := regField_encCi_lo f3 b12 mid 0 q

@[simp] theorem encCi_getElem12 (f3 : BitVec 3) (b12 : BitVec 1) (mid lo : BitVec 5) (q : BitVec 2) :
    (encCi f3 b12 mid lo q)[12] = b12[0] := encCi_bit12 f3 b12 mid lo q

@[simp] theorem encCb_getElem12 (b12 : BitVec 1) (sel : BitVec 2) (rd : CReg) (lo : BitVec 5) :
    (encCb b12 sel rd lo)[12] = b12[0] := encCb_bit12 b12 sel rd lo

/-- Two neighbouring fields make one. -/
theorem extract_join {n a s l k : Nat} (x : BitVec n) (h : a = s + l) :
    x.extractLsb' a k ++ x.extractLsb' s l = x.extractLsb' s (k + l) := by
  subst h; exact extract_append_extract x

/-! The scattered immediates. -/

@[simp] theorem immS_encS (imm : BitVec 12) (rs2 rs1 : Reg) (f3 : BitVec 3) (op : BitVec 7) :
    immS (encS imm rs2 rs1 f3 op) = imm := by
  unfold immS encS
  simp (disch := decide) only [extract_append_low, extract_append_high, reg5]
  simp (disch := decide) only [extract_extract, extract_join]
  exact extract_all _

@[simp] theorem immB_encB (imm : BitVec 12) (rs2 rs1 : Reg) (f3 : BitVec 3) (op : BitVec 7) :
    immB (encB imm rs2 rs1 f3 op) = imm := by
  unfold immB encB
  simp (disch := decide) only [extract_append_low, extract_append_high, reg5]
  simp (disch := decide) only [extract_extract, extract_join]
  exact extract_all _

@[simp] theorem immJ_encU (k : BitVec 20) (rd : Reg) (op : BitVec 7) : immJ (encU (fieldJ k) rd op) = k := by
  unfold immJ encU fieldJ
  simp (disch := decide) only [extract_append_low, extract_append_high, reg5]
  simp (disch := decide) only [extract_extract, extract_join]
  exact extract_all _

@[simp] theorem immCi_encCi (f3 : BitVec 3) (mid : BitVec 5) (k : BitVec 6) (q : BitVec 2) :
    immCi (encCi f3 (k.extractLsb' 5 1) mid (k.extractLsb' 0 5) q) = k := by
  rw [immCi, encCi_b12, encCi_lo]
  exact (extract_append_extract (s := 0) (l := 5) (k := 1) k).trans (extract_all k)

@[simp] theorem immCi_encCb (k : BitVec 6) (sel : BitVec 2) (rd : CReg) :
    immCi (encCb (k.extractLsb' 5 1) sel rd (k.extractLsb' 0 5)) = k := by
  rw [immCi, encCb_b12, encCb_lo]
  exact (extract_append_extract (s := 0) (l := 5) (k := 1) k).trans (extract_all k)

@[simp] theorem immCi16_encCi (f3 : BitVec 3) (mid : BitVec 5) (k : BitVec 6) (q : BitVec 2) :
    immCi16 (encCi f3 (k.extractLsb' 5 1) mid (fieldCi16 k) q) = k := by
  unfold immCi16 encCi fieldCi16
  simp (disch := decide) only [extract_append_low, extract_append_high]
  simp (disch := decide) only [extract_extract, extract_join]
  exact extract_all _

@[simp] theorem immCl_encCl (f3 : BitVec 3) (k : BitVec 5) (rs1 r : CReg) : immCl (encCl f3 k rs1 r) = k := by
  unfold immCl encCl
  simp (disch := decide) only [extract_append_low, extract_append_high]
  simp (disch := decide) only [extract_extract, extract_join]
  exact extract_all _

@[simp] theorem immCj_encSlot (f3 : BitVec 3) (k : BitVec 11) (q : BitVec 2) : immCj (encSlot f3 (fieldCj k) q) = k := by
  unfold immCj encSlot fieldCj
  simp (disch := decide) only [extract_append_low, extract_append_high]
  simp (disch := decide) only [extract_extract, extract_join]
  exact extract_all _

@[simp] theorem immClwsp_encCi (f3 : BitVec 3) (mid : BitVec 5) (k : BitVec 6) (q : BitVec 2) :
    immClwsp (encCi f3 (k.extractLsb' 3 1) mid (k.extractLsb' 0 3 ++ k.extractLsb' 4 2) q) = k := by
  unfold immClwsp encCi
  simp (disch := decide) only [extract_append_low, extract_append_high]
  simp (disch := decide) only [extract_extract, extract_join]
  exact extract_all _

@[simp] theorem immCiw_encCiw (k : BitVec 8) (rd : CReg) : immCiw (encCiw (fieldCiw k) rd) = k := by
  unfold immCiw encCiw fieldCiw
  simp (disch := decide) only [extract_append_low, extract_append_high]
  simp (disch := decide) only [extract_extract, extract_join]
  exact extract_all _

@[simp] theorem immCiw_encCiw_zero (rd : CReg) : immCiw (encCiw 0#8 rd) = 0#8 := immCiw_encCiw 0#8 rd

@[simp] theorem immCb_encCbr (f3 : BitVec 3) (k : BitVec 8) (rs1 : CReg) : immCb (encCbr f3 k rs1) = k := by
  unfold immCb encCbr fieldCbHi fieldCbLo
  simp (disch := decide) only [extract_append_low, extract_append_high]
  simp (disch := decide) only [extract_extract, extract_join]
  exact extract_all _

@[simp] theorem immCswsp_encCss (uimm : BitVec 6) (rs2 : Reg) : immCswsp (encCss uimm rs2) = uimm := by
  unfold immCswsp encCss
  simp (disch := decide) only [extract_append_low, extract_append_high]
  simp (disch := decide) only [extract_extract, extract_join]
  exact extract_all _

end Sys2Proof
end

