-- ==== Sys2Proof/Laws/PerInstr.lean ====
section
/-! SUPPORT. The family WordLength: the encoder gives each instruction a word of its row's width (30_encoding.md R70). -/
namespace Sys2Proof.Laws

/-- The width in bytes of an instruction's row in spec/opcode_table.json. -/
def WordLength.bytesOf : Instr → Nat
  | .cIllegal => 2
  | .resCAddi4spn _ => 2
  | .cAddi4spn _ _ => 2
  | .niCFld _ => 2
  | .cLw _ _ _ => 2
  | .niCFlw _ => 2
  | .resQ0F4 _ => 2
  | .niCFsd _ => 2
  | .cSw _ _ _ => 2
  | .unQ0F7 _ => 2
  | .cNop _ => 2
  | .cAddi _ _ => 2
  | .cJal _ => 2
  | .hintCLi _ => 2
  | .cLi _ _ => 2
  | .resCAddi16sp => 2
  | .cAddi16sp _ => 2
  | .resCLui _ => 2
  | .hintCLui _ => 2
  | .cLui _ _ => 2
  | .resCSrli _ => 2
  | .cSrli _ _ => 2
  | .nseCSrli _ _ => 2
  | .resCSrai _ => 2
  | .cSrai _ _ => 2
  | .nseCSrai _ _ => 2
  | .cAndi _ _ => 2
  | .cSub _ _ => 2
  | .cXor _ _ => 2
  | .cOr _ _ => 2
  | .cAnd _ _ => 2
  | .resQ1 _ => 2
  | .cJ _ => 2
  | .cBeqz _ _ => 2
  | .cBnez _ _ => 2
  | .nseCSlli _ => 2
  | .resCSlli _ => 2
  | .hintCSlli _ => 2
  | .cSlli _ _ => 2
  | .niCFldsp _ => 2
  | .resCLwsp _ => 2
  | .cLwsp _ _ => 2
  | .niCFlwsp _ => 2
  | .resCJr => 2
  | .cJr _ => 2
  | .hintCMv _ => 2
  | .cMv _ _ => 2
  | .cEbreak => 2
  | .cJalr _ => 2
  | .hintCAdd _ => 2
  | .cAdd _ _ => 2
  | .niCFsdsp _ => 2
  | .cSwsp _ _ => 2
  | .niCFswsp _ => 2
  | .add _ _ _ => 4
  | .sub _ _ _ => 4
  | .slt _ _ _ => 4
  | .sltu _ _ _ => 4
  | .and _ _ _ => 4
  | .or _ _ _ => 4
  | .xor _ _ _ => 4
  | .sll _ _ _ => 4
  | .srl _ _ _ => 4
  | .sra _ _ _ => 4
  | .addi _ _ _ => 4
  | .slti _ _ _ => 4
  | .sltiu _ _ _ => 4
  | .andi _ _ _ => 4
  | .ori _ _ _ => 4
  | .xori _ _ _ => 4
  | .slli _ _ _ => 4
  | .srli _ _ _ => 4
  | .srai _ _ _ => 4
  | .lw _ _ _ => 4
  | .lh _ _ _ => 4
  | .lhu _ _ _ => 4
  | .lb _ _ _ => 4
  | .lbu _ _ _ => 4
  | .sw _ _ _ => 4
  | .sh _ _ _ => 4
  | .sb _ _ _ => 4
  | .lui _ _ => 4
  | .auipc _ _ => 4
  | .jal _ _ => 4
  | .jalr _ _ _ => 4
  | .beq _ _ _ => 4
  | .bne _ _ _ => 4
  | .blt _ _ _ => 4
  | .bge _ _ _ => 4
  | .bltu _ _ _ => 4
  | .bgeu _ _ _ => 4
  | .ebreak => 4
  | .ecall => 4
  | .fence _ _ => 4

/-- The word of an instruction has the width of its row. -/
def WordLength.Statement (i : Instr) : Prop := (encode i).length = WordLength.bytesOf i

namespace WordLength

theorem cIllegal : Statement (.cIllegal) := rfl
theorem resCAddi4spn (rd : CReg) : Statement (.resCAddi4spn rd) := rfl
theorem cAddi4spn (rd : CReg) (nzuimm : BitVec 8) : Statement (.cAddi4spn rd nzuimm) := rfl
theorem niCFld (bits : BitVec 11) : Statement (.niCFld bits) := rfl
theorem cLw (rd : CReg) (rs1 : CReg) (uimm : BitVec 5) : Statement (.cLw rd rs1 uimm) := rfl
theorem niCFlw (bits : BitVec 11) : Statement (.niCFlw bits) := rfl
theorem resQ0F4 (bits : BitVec 11) : Statement (.resQ0F4 bits) := rfl
theorem niCFsd (bits : BitVec 11) : Statement (.niCFsd bits) := rfl
theorem cSw (rs2 : CReg) (rs1 : CReg) (uimm : BitVec 5) : Statement (.cSw rs2 rs1 uimm) := rfl
theorem unQ0F7 (bits : BitVec 11) : Statement (.unQ0F7 bits) := rfl
theorem cNop (nzimm : BitVec 6) : Statement (.cNop nzimm) := rfl
theorem cAddi (rd : Reg) (nzimm : BitVec 6) : Statement (.cAddi rd nzimm) := rfl
theorem cJal (imm : BitVec 11) : Statement (.cJal imm) := rfl
theorem hintCLi (imm : BitVec 6) : Statement (.hintCLi imm) := rfl
theorem cLi (rd : Reg) (imm : BitVec 6) : Statement (.cLi rd imm) := rfl
theorem resCAddi16sp : Statement (.resCAddi16sp) := rfl
theorem cAddi16sp (nzimm : BitVec 6) : Statement (.cAddi16sp nzimm) := rfl
theorem resCLui (rd : BitVec 5) : Statement (.resCLui rd) := rfl
theorem hintCLui (nzimm : BitVec 6) : Statement (.hintCLui nzimm) := rfl
theorem cLui (rd : Reg) (nzimm : BitVec 6) : Statement (.cLui rd nzimm) := rfl
theorem resCSrli (rd : CReg) : Statement (.resCSrli rd) := rfl
theorem cSrli (rd : CReg) (shamt : BitVec 5) : Statement (.cSrli rd shamt) := rfl
theorem nseCSrli (rd : CReg) (shamt : BitVec 5) : Statement (.nseCSrli rd shamt) := rfl
theorem resCSrai (rd : CReg) : Statement (.resCSrai rd) := rfl
theorem cSrai (rd : CReg) (shamt : BitVec 5) : Statement (.cSrai rd shamt) := rfl
theorem nseCSrai (rd : CReg) (shamt : BitVec 5) : Statement (.nseCSrai rd shamt) := rfl
theorem cAndi (rd : CReg) (imm : BitVec 6) : Statement (.cAndi rd imm) := rfl
theorem cSub (rd : CReg) (rs2 : CReg) : Statement (.cSub rd rs2) := rfl
theorem cXor (rd : CReg) (rs2 : CReg) : Statement (.cXor rd rs2) := rfl
theorem cOr (rd : CReg) (rs2 : CReg) : Statement (.cOr rd rs2) := rfl
theorem cAnd (rd : CReg) (rs2 : CReg) : Statement (.cAnd rd rs2) := rfl
theorem resQ1 (bits : BitVec 8) : Statement (.resQ1 bits) := rfl
theorem cJ (imm : BitVec 11) : Statement (.cJ imm) := rfl
theorem cBeqz (rs1 : CReg) (imm : BitVec 8) : Statement (.cBeqz rs1 imm) := rfl
theorem cBnez (rs1 : CReg) (imm : BitVec 8) : Statement (.cBnez rs1 imm) := rfl
theorem nseCSlli (bits : BitVec 10) : Statement (.nseCSlli bits) := rfl
theorem resCSlli (rd : BitVec 5) : Statement (.resCSlli rd) := rfl
theorem hintCSlli (shamt : BitVec 5) : Statement (.hintCSlli shamt) := rfl
theorem cSlli (rd : Reg) (shamt : BitVec 5) : Statement (.cSlli rd shamt) := rfl
theorem niCFldsp (bits : BitVec 11) : Statement (.niCFldsp bits) := rfl
theorem resCLwsp (uimm : BitVec 6) : Statement (.resCLwsp uimm) := rfl
theorem cLwsp (rd : Reg) (uimm : BitVec 6) : Statement (.cLwsp rd uimm) := rfl
theorem niCFlwsp (bits : BitVec 11) : Statement (.niCFlwsp bits) := rfl
theorem resCJr : Statement (.resCJr) := rfl
theorem cJr (rs1 : Reg) : Statement (.cJr rs1) := rfl
theorem hintCMv (rs2 : Reg) : Statement (.hintCMv rs2) := rfl
theorem cMv (rd : Reg) (rs2 : Reg) : Statement (.cMv rd rs2) := rfl
theorem cEbreak : Statement (.cEbreak) := rfl
theorem cJalr (rs1 : Reg) : Statement (.cJalr rs1) := rfl
theorem hintCAdd (rs2 : Reg) : Statement (.hintCAdd rs2) := rfl
theorem cAdd (rd : Reg) (rs2 : Reg) : Statement (.cAdd rd rs2) := rfl
theorem niCFsdsp (bits : BitVec 11) : Statement (.niCFsdsp bits) := rfl
theorem cSwsp (rs2 : Reg) (uimm : BitVec 6) : Statement (.cSwsp rs2 uimm) := rfl
theorem niCFswsp (bits : BitVec 11) : Statement (.niCFswsp bits) := rfl
theorem add (rd : Reg) (rs1 : Reg) (rs2 : Reg) : Statement (.add rd rs1 rs2) := rfl
theorem sub (rd : Reg) (rs1 : Reg) (rs2 : Reg) : Statement (.sub rd rs1 rs2) := rfl
theorem slt (rd : Reg) (rs1 : Reg) (rs2 : Reg) : Statement (.slt rd rs1 rs2) := rfl
theorem sltu (rd : Reg) (rs1 : Reg) (rs2 : Reg) : Statement (.sltu rd rs1 rs2) := rfl
theorem and (rd : Reg) (rs1 : Reg) (rs2 : Reg) : Statement (.and rd rs1 rs2) := rfl
theorem or (rd : Reg) (rs1 : Reg) (rs2 : Reg) : Statement (.or rd rs1 rs2) := rfl
theorem xor (rd : Reg) (rs1 : Reg) (rs2 : Reg) : Statement (.xor rd rs1 rs2) := rfl
theorem sll (rd : Reg) (rs1 : Reg) (rs2 : Reg) : Statement (.sll rd rs1 rs2) := rfl
theorem srl (rd : Reg) (rs1 : Reg) (rs2 : Reg) : Statement (.srl rd rs1 rs2) := rfl
theorem sra (rd : Reg) (rs1 : Reg) (rs2 : Reg) : Statement (.sra rd rs1 rs2) := rfl
theorem addi (rd : Reg) (rs1 : Reg) (imm : BitVec 12) : Statement (.addi rd rs1 imm) := rfl
theorem slti (rd : Reg) (rs1 : Reg) (imm : BitVec 12) : Statement (.slti rd rs1 imm) := rfl
theorem sltiu (rd : Reg) (rs1 : Reg) (imm : BitVec 12) : Statement (.sltiu rd rs1 imm) := rfl
theorem andi (rd : Reg) (rs1 : Reg) (imm : BitVec 12) : Statement (.andi rd rs1 imm) := rfl
theorem ori (rd : Reg) (rs1 : Reg) (imm : BitVec 12) : Statement (.ori rd rs1 imm) := rfl
theorem xori (rd : Reg) (rs1 : Reg) (imm : BitVec 12) : Statement (.xori rd rs1 imm) := rfl
theorem slli (rd : Reg) (rs1 : Reg) (shamt : BitVec 5) : Statement (.slli rd rs1 shamt) := rfl
theorem srli (rd : Reg) (rs1 : Reg) (shamt : BitVec 5) : Statement (.srli rd rs1 shamt) := rfl
theorem srai (rd : Reg) (rs1 : Reg) (shamt : BitVec 5) : Statement (.srai rd rs1 shamt) := rfl
theorem lw (rd : Reg) (rs1 : Reg) (imm : BitVec 12) : Statement (.lw rd rs1 imm) := rfl
theorem lh (rd : Reg) (rs1 : Reg) (imm : BitVec 12) : Statement (.lh rd rs1 imm) := rfl
theorem lhu (rd : Reg) (rs1 : Reg) (imm : BitVec 12) : Statement (.lhu rd rs1 imm) := rfl
theorem lb (rd : Reg) (rs1 : Reg) (imm : BitVec 12) : Statement (.lb rd rs1 imm) := rfl
theorem lbu (rd : Reg) (rs1 : Reg) (imm : BitVec 12) : Statement (.lbu rd rs1 imm) := rfl
theorem sw (rs2 : Reg) (rs1 : Reg) (imm : BitVec 12) : Statement (.sw rs2 rs1 imm) := rfl
theorem sh (rs2 : Reg) (rs1 : Reg) (imm : BitVec 12) : Statement (.sh rs2 rs1 imm) := rfl
theorem sb (rs2 : Reg) (rs1 : Reg) (imm : BitVec 12) : Statement (.sb rs2 rs1 imm) := rfl
theorem lui (rd : Reg) (imm : BitVec 20) : Statement (.lui rd imm) := rfl
theorem auipc (rd : Reg) (imm : BitVec 20) : Statement (.auipc rd imm) := rfl
theorem jal (rd : Reg) (imm : BitVec 20) : Statement (.jal rd imm) := rfl
theorem jalr (rd : Reg) (rs1 : Reg) (imm : BitVec 12) : Statement (.jalr rd rs1 imm) := rfl
theorem beq (rs1 : Reg) (rs2 : Reg) (imm : BitVec 12) : Statement (.beq rs1 rs2 imm) := rfl
theorem bne (rs1 : Reg) (rs2 : Reg) (imm : BitVec 12) : Statement (.bne rs1 rs2 imm) := rfl
theorem blt (rs1 : Reg) (rs2 : Reg) (imm : BitVec 12) : Statement (.blt rs1 rs2 imm) := rfl
theorem bge (rs1 : Reg) (rs2 : Reg) (imm : BitVec 12) : Statement (.bge rs1 rs2 imm) := rfl
theorem bltu (rs1 : Reg) (rs2 : Reg) (imm : BitVec 12) : Statement (.bltu rs1 rs2 imm) := rfl
theorem bgeu (rs1 : Reg) (rs2 : Reg) (imm : BitVec 12) : Statement (.bgeu rs1 rs2 imm) := rfl
theorem ebreak : Statement (.ebreak) := rfl
theorem ecall : Statement (.ecall) := rfl
theorem fence (hi : BitVec 17) (lo : BitVec 5) : Statement (.fence hi lo) := rfl

end WordLength
end Sys2Proof.Laws
end

