-- ==== Sys2Proof/Laws/Step.lean ====
section
/-! SUPPORT. What a step can do, said once: `step` by its fetch and decode, and every next state of `exec` as a register
write or a store, with a new `pc`. -/
namespace Sys2Proof.Machine

/-- A step whose fetch faults. -/
theorem step_of_fetch_fault {s : State} {f : Fault} (h : s.fetch = .fault f) : step s = .fault f := by unfold step; rw [h]; rfl

/-- A step whose fetch is refused. -/
theorem step_of_fetch_refused {s : State} {r : Refusal} (h : s.fetch = .refused r) : step s = .refused r := by
  unfold step; rw [h]; rfl

/-- A step whose word the decoder rejects. -/
theorem step_of_decode_error {s : State} {w : InstWord} {e : Reject} (h : s.fetch = .next w) (hd : decode w = .error e) :
    step s = raiseIllegal w s := by unfold step; rw [h, andThen_next]; simp only [hd]

/-- A step whose word decodes. -/
theorem step_of_decode_ok {s : State} {w : InstWord} {i : Instr} (h : s.fetch = .next w) (hd : decode w = .ok i) :
    step s = exec i s := by unfold step; rw [h, andThen_next]; simp only [hd]

/-- A step that answers a next state ran a decoded instruction. -/
theorem step_next {s t : State} (h : step s = .next t) :
    ∃ w i, s.fetch = .next w ∧ decode w = .ok i ∧ exec i s = .next t := by
  obtain ⟨w, hf, h⟩ := andThen_eq_next h
  cases hd : decode w with
  | error e => rw [hd] at h; cases h
  | ok i => exact ⟨w, i, hf, hd, by rwa [hd] at h⟩

/-- A run of `n + 1` steps is a step and a run of `n`. -/
theorem run_succ_next {n : Nat} {s t : State} (h : Host.Core.run Sys2Proof.core (n + 1) s = .next t) :
    ∃ u, step s = .next u ∧ Host.Core.run Sys2Proof.core n u = .next t := by
  have h' := (Host.Core.run.eq_2 Sys2Proof.core s n).symm.trans h
  cases hs : step s with
  | next u =>
    have hc : Sys2Proof.core.step s = .next u := hs
    rw [hc] at h'; exact ⟨u, rfl, h'⟩
  | fault r =>
    have hc : Sys2Proof.core.step s = .fault r := hs
    rw [hc] at h'; cases h'
  | refused r =>
    have hc : Sys2Proof.core.step s = .refused r := hs
    rw [hc] at h'; cases h'

/-- What every step keeps, every run keeps. -/
theorem run_keeps {P : State → Prop} (hstep : ∀ s t, P s → step s = .next t → P t) {n : Nat} {s t : State} (hs : P s)
    (h : Host.Core.run Sys2Proof.core n s = .next t) : P t := by
  induction n generalizing s with
  | zero => cases h; exact hs
  | succ n ih =>
    obtain ⟨u, hu, hr⟩ := run_succ_next h
    exact ih (hstep _ _ hs hu) hr

/-- `t` is `s` with one register written and another `pc`. -/
def WritesOnly (s t : State) : Prop := ∃ rd v p, t = (s.writeReg rd v).setPc p

/-- `t` is `s` with a store of `n` bytes at `addr` done, every check passed, and another `pc`. -/
def Stores (s t : State) : Prop :=
  ∃ (n : Width) (addr : Word) (v : n.Value) (p : Word), aligned n addr = true ∧ s.accessValid n addr = true
    ∧ s.accessInCode n addr = false ∧ t = (s.setMem (Memory.putBytes s.mem addr (valueBytes n v))).setPc p

theorem writesOnly_finish {s t : State} {rd : Reg} {v len : Word} (h : finish rd v len s = .next t) : WritesOnly s t := by
  cases h; exact ⟨rd, v, _, rfl⟩

/-- A write to `x0` is no write. -/
theorem State.writeReg_zero (s : State) (v : Word) : s.writeReg 0 v = s := rfl

theorem writesOnly_setPc (s : State) (p : Word) : WritesOnly s (s.setPc p) := ⟨0, 0, p, rfl⟩

theorem writesOnly_skip {s t : State} {len : Word} (h : skip len s = .next t) : WritesOnly s t := by
  cases h; exact writesOnly_setPc s _

theorem writesOnly_jump {s t : State} {p : Word} (h : jump p s = .next t) : WritesOnly s t := by
  cases h; exact writesOnly_setPc s _

theorem writesOnly_jumpLink {s t : State} {rd : Reg} {link p : Word} (h : jumpLink rd link p s = .next t) :
    WritesOnly s t := by
  cases h; exact ⟨rd, link, p, rfl⟩

theorem writesOnly_branch {s t : State} {c : Bool} {off len : Word} (h : branch c off len s = .next t) : WritesOnly s t := by
  rw [branch_eq] at h; cases h; exact writesOnly_setPc s _

theorem writesOnly_load {s t : State} {n : Width} {ext : n.Value → Word} {rd : Reg} {addr len : Word}
    (h : load n ext rd addr len s = .next t) : WritesOnly s t := by
  rcases load_cases h with ⟨-, -, e⟩ | ⟨c, -, e⟩
  · cases e; exact ⟨rd, _, _, rfl⟩
  · cases e

theorem stores_store {s t : State} {n : Width} {addr len : Word} {v : n.Value} (h : store n addr v len s = .next t) :
    Stores s t := by
  rcases store_cases h with ⟨ha, hv, hc, e⟩ | ⟨c, -, e⟩ | ⟨-, e⟩
  · cases e; exact ⟨n, addr, v, _, ha, hv, hc, rfl⟩
  · cases e
  · cases e

/-- Raising an exception answers no next state. -/
theorem raise_ne_next {c : Cause} {info : Option Word} {s t : State} : raise c info s ≠ .next t := nofun

/-- Every next state of `exec` is a register write or a store, with a new `pc`. -/
theorem exec_next {i : Instr} {s t : State} (h : exec i s = .next t) : WritesOnly s t ∨ Stores s t := by
  cases i
  case cLw | cLwsp | lw | lh | lhu | lb | lbu => exact .inl (writesOnly_load h)
  case cSw | cSwsp | sw | sh | sb => exact .inr (stores_store h)
  case cNop | hintCLi | hintCLui | hintCSlli | hintCMv | hintCAdd | fence => exact .inl (writesOnly_skip h)
  case cJ | cJr => exact .inl (writesOnly_jump h)
  case cJal | cJalr | jal | jalr => exact .inl (writesOnly_jumpLink h)
  case cBeqz | cBnez | beq | bne | blt | bge | bltu | bgeu => exact .inl (writesOnly_branch h)
  case cIllegal | resCAddi4spn | niCFld | niCFlw | resQ0F4 | niCFsd | unQ0F7 | resCAddi16sp | resCLui | resCSrli | nseCSrli
    | resCSrai | nseCSrai | resQ1 | nseCSlli | resCSlli | niCFldsp | resCLwsp | niCFlwsp | resCJr | cEbreak | niCFsdsp
    | niCFswsp | ebreak | ecall => exact absurd h raise_ne_next
  all_goals exact .inl (writesOnly_finish h)

end Sys2Proof.Machine
end

