-- ==== Sys2Proof/Tests/Slice0.lean ====
section
/-! SUPPORT. The model's own tests: ill-formed terms refused, words written out by the fields of their formats, one step of
each instruction on a small state, and a witness for the hypotheses of each statement. Expected values are the rows of
95_test_vectors.md unless a comment says otherwise. -/
namespace Sys2Proof.Tests
open Sys2Proof.Machine Sys2Proof.Claims

/-! ### Helpers -/

/-- Cells for consecutive bytes from an address on. -/
def bytesFrom (a : Nat) : List Byte → Memory
  | [] => []
  | b :: bs => (a, b) :: bytesFrom (a + 1) bs

/-- A machine about to run one word: `MEM_VALID` is exactly the bytes given, no register but the given ones holds a value
that matters. -/
def start (pc : Word) (w : InstWord) (rs : List (Reg × Word)) (data : Memory := []) (ext : ImmExt := .sign) : State :=
  let m := data.foldl (fun m c => Memory.put m c.1 c.2) (Memory.putBytes [] pc w.bytes)
  let s := State.launch ⟨m.map fun c => ⟨c.1, 1⟩, m, [], pc, Vector.replicate 15 0xA5A5A5A5, ext, CimState.reset⟩
  rs.foldl (fun t p => t.writeReg p.1 p.2) s

/-- The same machine with a `CODE_REGION`. -/
def withCode (s : State) (spans : List Span) : State := { s with params := { s.params with codeRegion := spans } }

/-- The next `pc` and one register. -/
def leaves (r : Result) (q : Reg) : Option (Word × Word) :=
  match r with
  | .next t => some (t.pc, t.readReg q)
  | _ => none

/-- The next `pc` and the four bytes from an address on. -/
def wordOf (r : Result) (a : Word) : Option (Word × List Byte) :=
  match r with
  | .next t => some (t.pc, [t.readByte a, t.readByte (a + 1), t.readByte (a + 2), t.readByte (a + 3)])
  | _ => none

/-- The trap of an outcome. -/
def trapOf (r : Result) : Option (Cause × Word × Option Word) :=
  match r with
  | .fault (.trapped c pc info) => some (c, pc, info)
  | _ => none

/-- The outcome is a next state. -/
def isNext (r : Result) : Bool :=
  match r with
  | .next _ => true
  | _ => false

/-- The next state, where there is one. -/
def nextOr (s : State) (r : Result) : State :=
  match r with
  | .next t => t
  | _ => s

/-- The word fetched, where there is one. -/
def fetched (s : State) : Option InstWord :=
  match s.fetch with
  | .next w => some w
  | _ => none

theorem fetch_of_fetched {s : State} {w : InstWord} (h : fetched s = some w) : s.fetch = .next w := by
  unfold fetched at h
  split at h
  next v e => cases h; exact e
  next => cases h

theorem eq_next {r : Result} (s : State) (h : isNext r = true) : r = .next (nextOr s r) := by
  cases r <;> first | rfl | cases h

/-! ### Ill-formed terms are refused -/

theorem test_wf_quadrant0 : (Instr.resCAddi4spn 0).WellFormed = false ∧ (Instr.cAddi4spn 2 0).WellFormed = false := by decide

theorem test_wf_quadrant1_rd : (Instr.cAddi 0 1).WellFormed = false ∧ (Instr.cLi 0 1).WellFormed = false
    ∧ (Instr.resCLui 2).WellFormed = false ∧ (Instr.cLui 0 1).WellFormed = false
    ∧ (Instr.cLui 2 1).WellFormed = false := by decide

theorem test_wf_quadrant1_immediate : (Instr.cAddi16sp 0).WellFormed = false ∧ (Instr.hintCLui 0).WellFormed = false
    ∧ (Instr.cLui 1 0).WellFormed = false ∧ (Instr.cSrli 0 0).WellFormed = false
    ∧ (Instr.cSrai 0 0).WellFormed = false := by decide

theorem test_wf_quadrant2_shift_and_load : (Instr.hintCSlli 0).WellFormed = false ∧ (Instr.cSlli 0 1).WellFormed = false
    ∧ (Instr.cSlli 1 0).WellFormed = false ∧ (Instr.cLwsp 0 1).WellFormed = false := by decide

theorem test_wf_quadrant2_registers : (Instr.cJr 0).WellFormed = false ∧ (Instr.cJalr 0).WellFormed = false
    ∧ (Instr.hintCMv 0).WellFormed = false ∧ (Instr.cMv 0 1).WellFormed = false ∧ (Instr.cMv 1 0).WellFormed = false
    ∧ (Instr.hintCAdd 0).WellFormed = false ∧ (Instr.cAdd 0 1).WellFormed = false
    ∧ (Instr.cAdd 1 0).WellFormed = false := by decide

/-! ### Decoding, every constructor -/

/-- Words of V1: 41_c_quadrant0.md, by their fields. -/
theorem test_decode_quadrant0 :
    decode (.half (0b000#3 ++ 0b00000000#8 ++ 0b000#3 ++ 0b00#2)) = .ok .cIllegal
    ∧ decode (.half (0b000#3 ++ 0b00000000#8 ++ 0b001#3 ++ 0b00#2)) = .ok (.resCAddi4spn 1)
    ∧ decode (.half (0b000#3 ++ 0b01000000#8 ++ 0b010#3 ++ 0b00#2)) = .ok (.cAddi4spn 2 4)
    ∧ decode (.half (0b000#3 ++ 0b11111111#8 ++ 0b000#3 ++ 0b00#2)) = .ok (.cAddi4spn 0 255)
    ∧ decode (.half (0b001#3 ++ 0b00000000000#11 ++ 0b00#2)) = .ok (.niCFld 0)
    ∧ decode (.half (0b010#3 ++ 0b001#3 ++ 0b011#3 ++ 0b00#2 ++ 0b010#3 ++ 0b00#2)) = .ok (.cLw 2 3 2)
    ∧ decode (.half (0b011#3 ++ 0b00000000000#11 ++ 0b00#2)) = .ok (.niCFlw 0)
    ∧ decode (.half (0b100#3 ++ 0b00000000000#11 ++ 0b00#2)) = .ok (.resQ0F4 0)
    ∧ decode (.half (0b101#3 ++ 0b00000000000#11 ++ 0b00#2)) = .ok (.niCFsd 0)
    ∧ decode (.half (0b110#3 ++ 0b000#3 ++ 0b001#3 ++ 0b01#2 ++ 0b100#3 ++ 0b00#2)) = .ok (.cSw 4 1 16)
    ∧ decode (.half (0b111#3 ++ 0b11111111111#11 ++ 0b00#2)) = .ok (.unQ0F7 0x7FF) := by decide

/-- Words of V2: 42_c_quadrant1.md, by their fields. -/
theorem test_decode_quadrant1_immediates :
    decode (.half (0b000#3 ++ 0b1#1 ++ 0b00000#5 ++ 0b11111#5 ++ 0b01#2)) = .ok (.cNop 0b111111)
    ∧ decode (.half (0b000#3 ++ 0b1#1 ++ 0b01010#5 ++ 0b11111#5 ++ 0b01#2)) = .ok (.cAddi 10 0b111111)
    ∧ decode (.half (0b001#3 ++ 0b0#1 ++ 0b0#1 ++ 0b00#2 ++ 0b0#1 ++ 0b0#1 ++ 0b0#1 ++ 0b100#3 ++ 0b0#1 ++ 0b01#2)) = .ok (.cJal 4)
    ∧ decode (.half (0b001#3 ++ 0b1#1 ++ 0b0#1 ++ 0b00#2 ++ 0b0#1 ++ 0b0#1 ++ 0b0#1 ++ 0b000#3 ++ 0b0#1 ++ 0b01#2)) = .ok (.cJal 0x400)
    ∧ decode (.half (0b010#3 ++ 0b0#1 ++ 0b00000#5 ++ 0b00101#5 ++ 0b01#2)) = .ok (.hintCLi 5)
    ∧ decode (.half (0b010#3 ++ 0b1#1 ++ 0b00001#5 ++ 0b00000#5 ++ 0b01#2)) = .ok (.cLi 1 0b100000)
    ∧ decode (.half (0b011#3 ++ 0b0#1 ++ 0b00010#5 ++ 0b00000#5 ++ 0b01#2)) = .ok .resCAddi16sp
    ∧ decode (.half (0b011#3 ++ 0b1#1 ++ 0b00010#5 ++ 0b01110#5 ++ 0b01#2)) = .ok (.cAddi16sp 0b111100)
    ∧ decode (.half (0b011#3 ++ 0b0#1 ++ 0b01010#5 ++ 0b00000#5 ++ 0b01#2)) = .ok (.resCLui 10)
    ∧ decode (.half (0b011#3 ++ 0b0#1 ++ 0b00000#5 ++ 0b00001#5 ++ 0b01#2)) = .ok (.hintCLui 1)
    ∧ decode (.half (0b011#3 ++ 0b1#1 ++ 0b01010#5 ++ 0b00000#5 ++ 0b01#2)) = .ok (.cLui 10 0b100000) := by decide

/-- Words of V2: 42_c_quadrant1.md, by their fields. -/
theorem test_decode_quadrant1_group100 :
    decode (.half (0b100#3 ++ 0b0#1 ++ 0b00#2 ++ 0b010#3 ++ 0b00000#5 ++ 0b01#2)) = .ok (.resCSrli 2)
    ∧ decode (.half (0b100#3 ++ 0b0#1 ++ 0b00#2 ++ 0b010#3 ++ 0b00100#5 ++ 0b01#2)) = .ok (.cSrli 2 4)
    ∧ decode (.half (0b100#3 ++ 0b1#1 ++ 0b00#2 ++ 0b010#3 ++ 0b00001#5 ++ 0b01#2)) = .ok (.nseCSrli 2 1)
    ∧ decode (.half (0b100#3 ++ 0b0#1 ++ 0b01#2 ++ 0b010#3 ++ 0b00000#5 ++ 0b01#2)) = .ok (.resCSrai 2)
    ∧ decode (.half (0b100#3 ++ 0b0#1 ++ 0b01#2 ++ 0b010#3 ++ 0b00100#5 ++ 0b01#2)) = .ok (.cSrai 2 4)
    ∧ decode (.half (0b100#3 ++ 0b1#1 ++ 0b01#2 ++ 0b010#3 ++ 0b00001#5 ++ 0b01#2)) = .ok (.nseCSrai 2 1)
    ∧ decode (.half (0b100#3 ++ 0b1#1 ++ 0b10#2 ++ 0b010#3 ++ 0b10000#5 ++ 0b01#2)) = .ok (.cAndi 2 0b110000)
    ∧ decode (.half (0b100011#6 ++ 0b010#3 ++ 0b00#2 ++ 0b011#3 ++ 0b01#2)) = .ok (.cSub 2 3)
    ∧ decode (.half (0b100011#6 ++ 0b010#3 ++ 0b01#2 ++ 0b011#3 ++ 0b01#2)) = .ok (.cXor 2 3)
    ∧ decode (.half (0b100011#6 ++ 0b010#3 ++ 0b10#2 ++ 0b011#3 ++ 0b01#2)) = .ok (.cOr 2 3)
    ∧ decode (.half (0b100011#6 ++ 0b010#3 ++ 0b11#2 ++ 0b011#3 ++ 0b01#2)) = .ok (.cAnd 2 3)
    ∧ decode (.half (0b100111#6 ++ 0b01011011#8 ++ 0b01#2)) = .ok (.resQ1 0b01011011) := by decide

/-- Words of V2: 42_c_quadrant1.md, by their fields. -/
theorem test_decode_quadrant1_control :
    decode (.half (0b101#3 ++ 0b1#1 ++ 0b1#1 ++ 0b11#2 ++ 0b1#1 ++ 0b1#1 ++ 0b1#1 ++ 0b110#3 ++ 0b1#1 ++ 0b01#2)) = .ok (.cJ 0x7FE)
    ∧ decode (.half (0b101#3 ++ 0b0#1 ++ 0b1#1 ++ 0b11#2 ++ 0b1#1 ++ 0b1#1 ++ 0b1#1 ++ 0b111#3 ++ 0b1#1 ++ 0b01#2)) = .ok (.cJ 0x3FF)
    ∧ decode (.half (0b110#3 ++ 0b011#3 ++ 0b111#3 ++ 0b11111#5 ++ 0b01#2)) = .ok (.cBeqz 7 0x7F)
    ∧ decode (.half (0b111#3 ++ 0b111#3 ++ 0b010#3 ++ 0b11001#5 ++ 0b01#2)) = .ok (.cBnez 2 0xFC) := by decide

/-- Words of V3: 43_c_quadrant2.md, by their fields. -/
theorem test_decode_quadrant2 :
    decode (.half (0b0001#4 ++ 0b0101000001#10 ++ 0b10#2)) = .ok (.nseCSlli 0b0101000001)
    ∧ decode (.half (0b000#3 ++ 0b0#1 ++ 0b01010#5 ++ 0b00000#5 ++ 0b10#2)) = .ok (.resCSlli 10)
    ∧ decode (.half (0b000#3 ++ 0b0#1 ++ 0b00000#5 ++ 0b00100#5 ++ 0b10#2)) = .ok (.hintCSlli 4)
    ∧ decode (.half (0b000#3 ++ 0b0#1 ++ 0b01111#5 ++ 0b01100#5 ++ 0b10#2)) = .ok (.cSlli 15 12)
    ∧ decode (.half (0b001#3 ++ 0b00000000000#11 ++ 0b10#2)) = .ok (.niCFldsp 0)
    ∧ decode (.half (0b010#3 ++ 0b0#1 ++ 0b00000#5 ++ 0b01000#5 ++ 0b10#2)) = .ok (.resCLwsp 2)
    ∧ decode (.half (0b010#3 ++ 0b1#1 ++ 0b01010#5 ++ 0b11111#5 ++ 0b10#2)) = .ok (.cLwsp 10 63)
    ∧ decode (.half (0b010#3 ++ 0b0#1 ++ 0b00001#5 ++ 0b01100#5 ++ 0b10#2)) = .ok (.cLwsp 1 3)
    ∧ decode (.half (0b011#3 ++ 0b00000000000#11 ++ 0b10#2)) = .ok (.niCFlwsp 0)
    ∧ decode (.half (0b1000#4 ++ 0b00000#5 ++ 0b00000#5 ++ 0b10#2)) = .ok .resCJr
    ∧ decode (.half (0b1000#4 ++ 0b00001#5 ++ 0b00000#5 ++ 0b10#2)) = .ok (.cJr 1)
    ∧ decode (.half (0b1000#4 ++ 0b00000#5 ++ 0b01011#5 ++ 0b10#2)) = .ok (.hintCMv 11)
    ∧ decode (.half (0b1000#4 ++ 0b01010#5 ++ 0b01011#5 ++ 0b10#2)) = .ok (.cMv 10 11)
    ∧ decode (.half (0b1001#4 ++ 0b00000#5 ++ 0b00000#5 ++ 0b10#2)) = .ok .cEbreak
    ∧ decode (.half (0b1001#4 ++ 0b01010#5 ++ 0b00000#5 ++ 0b10#2)) = .ok (.cJalr 10)
    ∧ decode (.half (0b1001#4 ++ 0b00000#5 ++ 0b01011#5 ++ 0b10#2)) = .ok (.hintCAdd 11)
    ∧ decode (.half (0b1001#4 ++ 0b01010#5 ++ 0b01011#5 ++ 0b10#2)) = .ok (.cAdd 10 11)
    ∧ decode (.half (0b101#3 ++ 0b00000000000#11 ++ 0b10#2)) = .ok (.niCFsdsp 0)
    ∧ decode (.half (0b110#3 ++ 0b001100#6 ++ 0b00001#5 ++ 0b10#2)) = .ok (.cSwsp 1 3)
    ∧ decode (.half (0b111#3 ++ 0b00000000000#11 ++ 0b10#2)) = .ok (.niCFswsp 0) := by decide

/-- Words of V4: 44_alu.md, by their fields. -/
theorem test_decode_alu_register :
    decode (.full (0b0000000#7 ++ 0b01100#5 ++ 0b01011#5 ++ 0b000#3 ++ 0b01010#5 ++ 0b0110011#7)) = .ok (.add 10 11 12)
    ∧ decode (.full (0b0100000#7 ++ 0b01100#5 ++ 0b01011#5 ++ 0b000#3 ++ 0b01010#5 ++ 0b0110011#7)) = .ok (.sub 10 11 12)
    ∧ decode (.full (0b0000000#7 ++ 0b01100#5 ++ 0b01011#5 ++ 0b010#3 ++ 0b01010#5 ++ 0b0110011#7)) = .ok (.slt 10 11 12)
    ∧ decode (.full (0b0000000#7 ++ 0b01100#5 ++ 0b01011#5 ++ 0b011#3 ++ 0b01010#5 ++ 0b0110011#7)) = .ok (.sltu 10 11 12)
    ∧ decode (.full (0b0000000#7 ++ 0b01100#5 ++ 0b01011#5 ++ 0b111#3 ++ 0b01010#5 ++ 0b0110011#7)) = .ok (.and 10 11 12)
    ∧ decode (.full (0b0000000#7 ++ 0b01100#5 ++ 0b01011#5 ++ 0b110#3 ++ 0b01010#5 ++ 0b0110011#7)) = .ok (.or 10 11 12)
    ∧ decode (.full (0b0000000#7 ++ 0b01100#5 ++ 0b01011#5 ++ 0b100#3 ++ 0b01010#5 ++ 0b0110011#7)) = .ok (.xor 10 11 12)
    ∧ decode (.full (0b0000000#7 ++ 0b01100#5 ++ 0b01011#5 ++ 0b001#3 ++ 0b01010#5 ++ 0b0110011#7)) = .ok (.sll 10 11 12)
    ∧ decode (.full (0b0000000#7 ++ 0b01100#5 ++ 0b01011#5 ++ 0b101#3 ++ 0b01010#5 ++ 0b0110011#7)) = .ok (.srl 10 11 12)
    ∧ decode (.full (0b0100000#7 ++ 0b01100#5 ++ 0b01011#5 ++ 0b101#3 ++ 0b01010#5 ++ 0b0110011#7)) = .ok (.sra 10 11 12) := by decide

/-- Words of V5: 44_alu.md, by their fields. -/
theorem test_decode_alu_immediate :
    decode (.full (0b011001111000#12 ++ 0b01010#5 ++ 0b000#3 ++ 0b01010#5 ++ 0b0010011#7)) = .ok (.addi 10 10 1656)
    ∧ decode (.full (0b100000000000#12 ++ 0b01011#5 ++ 0b010#3 ++ 0b01010#5 ++ 0b0010011#7)) = .ok (.slti 10 11 0x800)
    ∧ decode (.full (0b011111111111#12 ++ 0b01011#5 ++ 0b011#3 ++ 0b01010#5 ++ 0b0010011#7)) = .ok (.sltiu 10 11 2047)
    ∧ decode (.full (0b111100000000#12 ++ 0b01011#5 ++ 0b111#3 ++ 0b01010#5 ++ 0b0010011#7)) = .ok (.andi 10 11 0xF00)
    ∧ decode (.full (0b000001010101#12 ++ 0b01011#5 ++ 0b110#3 ++ 0b01010#5 ++ 0b0010011#7)) = .ok (.ori 10 11 85)
    ∧ decode (.full (0b000000001111#12 ++ 0b01011#5 ++ 0b100#3 ++ 0b01010#5 ++ 0b0010011#7)) = .ok (.xori 10 11 15)
    ∧ decode (.full (0b0000000#7 ++ 0b11111#5 ++ 0b01011#5 ++ 0b001#3 ++ 0b01010#5 ++ 0b0010011#7)) = .ok (.slli 10 11 31)
    ∧ decode (.full (0b0000000#7 ++ 0b00100#5 ++ 0b01011#5 ++ 0b101#3 ++ 0b01010#5 ++ 0b0010011#7)) = .ok (.srli 10 11 4)
    ∧ decode (.full (0b0100000#7 ++ 0b00100#5 ++ 0b01011#5 ++ 0b101#3 ++ 0b01010#5 ++ 0b0010011#7)) = .ok (.srai 10 11 4) := by decide

/-- Words of V6: 45_load_store.md, by their fields. -/
theorem test_decode_load_store :
    decode (.full (0b111111111100#12 ++ 0b00010#5 ++ 0b010#3 ++ 0b01010#5 ++ 0b0000011#7)) = .ok (.lw 10 2 0xFFC)
    ∧ decode (.full (0b000000000010#12 ++ 0b01011#5 ++ 0b001#3 ++ 0b01010#5 ++ 0b0000011#7)) = .ok (.lh 10 11 2)
    ∧ decode (.full (0b000000000010#12 ++ 0b01011#5 ++ 0b101#3 ++ 0b01010#5 ++ 0b0000011#7)) = .ok (.lhu 10 11 2)
    ∧ decode (.full (0b000000000011#12 ++ 0b01011#5 ++ 0b000#3 ++ 0b01010#5 ++ 0b0000011#7)) = .ok (.lb 10 11 3)
    ∧ decode (.full (0b000000000011#12 ++ 0b01011#5 ++ 0b100#3 ++ 0b01010#5 ++ 0b0000011#7)) = .ok (.lbu 10 11 3)
    ∧ decode (.full (0b1111111#7 ++ 0b00001#5 ++ 0b00010#5 ++ 0b010#3 ++ 0b11100#5 ++ 0b0100011#7)) = .ok (.sw 1 2 0xFFC)
    ∧ decode (.full (0b0000000#7 ++ 0b01010#5 ++ 0b01011#5 ++ 0b001#3 ++ 0b00010#5 ++ 0b0100011#7)) = .ok (.sh 10 11 2)
    ∧ decode (.full (0b0000000#7 ++ 0b01010#5 ++ 0b01011#5 ++ 0b000#3 ++ 0b00011#5 ++ 0b0100011#7)) = .ok (.sb 10 11 3) := by decide

/-- Words of V7 to V9: 46_upper_immediate.md, 47_control_flow.md, 48_system.md, by their fields. -/
theorem test_decode_control_flow_and_system :
    decode (.full (0b00010010001101000101#20 ++ 0b01010#5 ++ 0b0110111#7)) = .ok (.lui 10 0x12345)
    ∧ decode (.full (0b00000001000000000000#20 ++ 0b01011#5 ++ 0b0010111#7)) = .ok (.auipc 11 0x1000)
    ∧ decode (.full (0b1#1 ++ 0b1111111110#10 ++ 0b1#1 ++ 0b11111111#8 ++ 0b00000#5 ++ 0b1101111#7)) = .ok (.jal 0 0xFFFFE)
    ∧ decode (.full (0b0#1 ++ 0b1111111111#10 ++ 0b1#1 ++ 0b11111111#8 ++ 0b00001#5 ++ 0b1101111#7)) = .ok (.jal 1 0x7FFFF)
    ∧ decode (.full (0b111111111101#12 ++ 0b01010#5 ++ 0b000#3 ++ 0b00001#5 ++ 0b1100111#7)) = .ok (.jalr 1 10 0xFFD)
    ∧ decode (.full (0b0#1 ++ 0b111111#6 ++ 0b00000#5 ++ 0b00000#5 ++ 0b000#3 ++ 0b1111#4 ++ 0b1#1 ++ 0b1100011#7)) = .ok (.beq 0 0 0x7FF)
    ∧ decode (.full (0b1#1 ++ 0b111111#6 ++ 0b01011#5 ++ 0b01010#5 ++ 0b001#3 ++ 0b1110#4 ++ 0b1#1 ++ 0b1100011#7)) = .ok (.bne 10 11 0xFFE)
    ∧ decode (.full (0b0#1 ++ 0b000000#6 ++ 0b01011#5 ++ 0b01010#5 ++ 0b100#3 ++ 0b1000#4 ++ 0b0#1 ++ 0b1100011#7)) = .ok (.blt 10 11 8)
    ∧ decode (.full (0b0#1 ++ 0b000000#6 ++ 0b01011#5 ++ 0b01010#5 ++ 0b101#3 ++ 0b1000#4 ++ 0b0#1 ++ 0b1100011#7)) = .ok (.bge 10 11 8)
    ∧ decode (.full (0b0#1 ++ 0b000000#6 ++ 0b01011#5 ++ 0b01010#5 ++ 0b110#3 ++ 0b1000#4 ++ 0b0#1 ++ 0b1100011#7)) = .ok (.bltu 10 11 8)
    ∧ decode (.full (0b0#1 ++ 0b000000#6 ++ 0b01011#5 ++ 0b01010#5 ++ 0b111#3 ++ 0b1000#4 ++ 0b0#1 ++ 0b1100011#7)) = .ok (.bgeu 10 11 8)
    ∧ decode (.full (0b000000000001#12 ++ 0b00000#5 ++ 0b000#3 ++ 0b00000#5 ++ 0b1110011#7)) = .ok .ebreak
    ∧ decode (.full (0b000000000000#12 ++ 0b00000#5 ++ 0b000#3 ++ 0b00000#5 ++ 0b1110011#7)) = .ok .ecall
    ∧ decode (.full (0b100000110011#12 ++ 0b00000#5 ++ 0b000#3 ++ 0b00000#5 ++ 0b0001111#7)) = .ok (.fence 0b10000011001100000 0) := by decide

/-- Words no row has: register 16, FENCE.I, MRET, custom-0 and a compressed parcel taken for a 32-bit word. -/
theorem test_decode_rejects : decode (.half 0x8806) = .error .registerField ∧ decode (.full 0x0000100F) = .error .systemWord
    ∧ decode (.full 0x30200073) = .error .systemWord ∧ decode (.full 0x0000000B) = .error .unlistedOpcode
    ∧ decode (.full 0x02C58533) = .error .functionCode ∧ decode (.full 0x00000001) = .error .wrongLength := by decide

/-! ### One step -/

theorem test_c_addi4spn_wraps :
    leaves (step (start 0x100 (.half 0x005C) [(2, 0xFFFFFFFC)])) 15 = some (0x102, 0) := by decide
theorem test_c_addi4spn_largest :
    leaves (step (start 0x100 (.half 0x1FE0) [(2, 0)])) 8 = some (0x102, 0x3FC) := by decide
theorem test_c_lw_little_endian :
    leaves (step (start 0x100 (.half 0x4588) [(11, 0x1000)] (bytesFrom 0x1008 [0x78, 0x56, 0x34, 0x12]))) 10 = some (0x102, 0x12345678) := by decide
theorem test_c_lw_base_is_destination :
    leaves (step (start 0x100 (.half 0x4108) [(10, 0x1000)] (bytesFrom 0x1000 [0xEF, 0xBE, 0xAD, 0xDE]))) 10 = some (0x102, 0xDEADBEEF) := by decide
theorem test_c_sw :
    wordOf (step (start 0x100 (.half 0xC1C8) [(10, 0xDEADBEEF), (11, 0x1000)] (bytesFrom 0x1004 [0, 0, 0, 0]))) 0x1004 = some (0x102, [0xEF, 0xBE, 0xAD, 0xDE]) := by decide
theorem test_c_sw_offset_bit_6 :
    wordOf (step (start 0x100 (.half 0xC0B0) [(9, 0x3000), (12, 1)] (bytesFrom 0x3040 [0xAA, 0xAA, 0xAA, 0xAA]))) 0x3040 = some (0x102, [1, 0, 0, 0]) := by decide
theorem test_c_nop_ignores_nzimm :
    leaves (step (start 0x100 (.half 0x107D) [])) 1 = some (0x102, 0xA5A5A5A5) := by decide
theorem test_c_addi_wraps :
    leaves (step (start 0x100 (.half 0x057D) [(10, 0xFFFFFFF0)])) 10 = some (0x102, 0xF) := by decide
theorem test_c_addi_zero_is_a_hint :
    leaves (step (start 0x100 (.half 0x0501) [(10, 0x1234)])) 10 = some (0x102, 0x1234) := by decide
theorem test_c_jal_links : leaves (step (start 0x100 (.half 0x2021) [])) 1 = some (0x108, 0x102) := by decide
theorem test_c_jal_smallest : leaves (step (start 0x1000 (.half 0x3001) [])) 1 = some (0x800, 0x1002) := by decide
theorem test_hint_c_li : leaves (step (start 0x100 (.half 0x4015) [])) 1 = some (0x102, 0xA5A5A5A5) := by decide
theorem test_c_li_negative :
    leaves (step (start 0x100 (.half 0x557D) [(10, 0x55)])) 10 = some (0x102, 0xFFFFFFFF) := by decide
theorem test_c_li_smallest : leaves (step (start 0x100 (.half 0x5081) [])) 1 = some (0x102, 0xFFFFFFE0) := by decide
theorem test_c_addi16sp_negative :
    leaves (step (start 0x100 (.half 0x7139) [(2, 0x20001000)])) 2 = some (0x102, 0x20000FC0) := by decide
theorem test_c_addi16sp_unaligned_sp :
    leaves (step (start 0x100 (.half 0x6141) [(2, 0x1003)])) 2 = some (0x102, 0x1013) := by decide
theorem test_c_lui_low_end : leaves (step (start 0x100 (.half 0x7501) [])) 10 = some (0x102, 0xFFFE0000) := by decide
theorem test_c_lui_positive : leaves (step (start 0x100 (.half 0x657D) [])) 10 = some (0x102, 0x1F000) := by decide
theorem test_hint_c_lui : leaves (step (start 0x100 (.half 0x6005) [])) 1 = some (0x102, 0xA5A5A5A5) := by decide
theorem test_c_srli :
    leaves (step (start 0x100 (.half 0x8111) [(10, 0x80000010)])) 10 = some (0x102, 0x8000001) := by decide
theorem test_c_srai_sign_fill :
    leaves (step (start 0x100 (.half 0x8511) [(10, 0x80000010)])) 10 = some (0x102, 0xF8000001) := by decide
theorem test_c_srai_31_of_a_positive :
    leaves (step (start 0x100 (.half 0x857D) [(10, 0x7FFFFFFF)])) 10 = some (0x102, 0) := by decide
theorem test_c_andi_negative :
    leaves (step (start 0x100 (.half 0x9941) [(10, 0x12345678)])) 10 = some (0x102, 0x12345670) := by decide
theorem test_c_sub_wraps :
    leaves (step (start 0x100 (.half 0x8D0D) [(10, 5), (11, 7)])) 10 = some (0x102, 0xFFFFFFFE) := by decide
theorem test_c_sub_with_itself :
    leaves (step (start 0x100 (.half 0x8D09) [(10, 0x1234)])) 10 = some (0x102, 0) := by decide
theorem test_c_xor :
    leaves (step (start 0x100 (.half 0x8D2D) [(10, 0xFF00FF00), (11, 0xFF00FF0)])) 10 = some (0x102, 0xF0F0F0F0) := by decide
theorem test_c_or :
    leaves (step (start 0x100 (.half 0x8D4D) [(10, 0xFF00FF00), (11, 0xFF00FF0)])) 10 = some (0x102, 0xFFF0FFF0) := by decide
theorem test_c_and :
    leaves (step (start 0x100 (.half 0x8D6D) [(10, 0xFF00FF00), (11, 0xFF00FF0)])) 10 = some (0x102, 0xF000F00) := by decide
theorem test_c_j_back : leaves (step (start 0x108 (.half 0xBFF5) [])) 1 = some (0x104, 0xA5A5A5A5) := by decide
theorem test_c_j_wraps : leaves (step (start 0 (.half 0xBFFD) [])) 1 = some (0xFFFFFFFE, 0xA5A5A5A5) := by decide
theorem test_c_beqz_taken_back : leaves (step (start 0x1000 (.half 0xD001) [(8, 0)])) 8 = some (0xF00, 0) := by decide
theorem test_c_beqz_not_taken :
    leaves (step (start 0x100 (.half 0xC501) [(10, 0x80000000)])) 10 = some (0x102, 0x80000000) := by decide
theorem test_c_bnez_taken : leaves (step (start 0x100 (.half 0xFD65) [(10, 1)])) 10 = some (0xF8, 1) := by decide
theorem test_c_bnez_not_taken : leaves (step (start 0x100 (.half 0xFD65) [(10, 0)])) 10 = some (0x102, 0) := by decide
theorem test_c_slli :
    leaves (step (start 0x100 (.half 0x07B2) [(15, 0xABCDE)])) 15 = some (0x102, 0xABCDE000) := by decide
theorem test_hint_c_slli : leaves (step (start 0x100 (.half 0x0012) [])) 1 = some (0x102, 0xA5A5A5A5) := by decide
theorem test_c_lwsp :
    leaves (step (start 0x100 (.half 0x40B2) [(2, 0x2000)] (bytesFrom 0x200C [4, 1, 0, 0]))) 1 = some (0x102, 0x104) := by decide
theorem test_c_lwsp_into_sp :
    leaves (step (start 0x100 (.half 0x4102) [(2, 0x2000)] (bytesFrom 0x2000 [0, 0x30, 0, 0]))) 2 = some (0x102, 0x3000) := by decide
theorem test_c_jr_return :
    leaves (step (start 0x100 (.half 0x8082) [(1, 0x104)])) 1 = some (0x104, 0x104) := by decide
theorem test_c_jr_clears_bit_0 :
    leaves (step (start 0x100 (.half 0x8502) [(10, 0x205)])) 10 = some (0x204, 0x205) := by decide
theorem test_c_mv : leaves (step (start 0x100 (.half 0x8122) [(8, 0x3000)])) 2 = some (0x102, 0x3000) := by decide
theorem test_hint_c_mv : leaves (step (start 0x100 (.half 0x802E) [(11, 5)])) 11 = some (0x102, 5) := by decide
theorem test_c_jalr_old_x1 :
    leaves (step (start 0x100 (.half 0x9082) [(1, 0x300)])) 1 = some (0x300, 0x102) := by decide
theorem test_c_jalr_clears_bit_0 :
    leaves (step (start 0x100 (.half 0x9782) [(15, 0x4FF)])) 1 = some (0x4FE, 0x102) := by decide
theorem test_c_add_wraps :
    leaves (step (start 0x100 (.half 0x952E) [(10, 0xFFFFFFFF), (11, 2)])) 10 = some (0x102, 1) := by decide
theorem test_c_add_doubles :
    leaves (step (start 0x100 (.half 0x952A) [(10, 0x40000000)])) 10 = some (0x102, 0x80000000) := by decide
theorem test_hint_c_add : leaves (step (start 0x100 (.half 0x902E) [(11, 5)])) 11 = some (0x102, 5) := by decide
theorem test_c_swsp :
    wordOf (step (start 0x100 (.half 0xC606) [(1, 0x104), (2, 0x2000)] (bytesFrom 0x200C [0xFF, 0xFF, 0xFF, 0xFF]))) 0x200C = some (0x102, [4, 1, 0, 0]) := by decide
theorem test_c_swsp_x0 :
    wordOf (step (start 0x100 (.half 0xC402) [(2, 0x2000)] (bytesFrom 0x2008 [0xFF, 0xFF, 0xFF, 0xFF]))) 0x2008 = some (0x102, [0, 0, 0, 0]) := by decide
theorem test_add_wraps :
    leaves (step (start 0x100 (.full 0x00C58533) [(11, 0x7FFFFFFF), (12, 1)])) 10 = some (0x104, 0x80000000) := by decide
theorem test_add_one_register :
    leaves (step (start 0x100 (.full 0x00A50533) [(10, 0x11)])) 10 = some (0x104, 0x22) := by decide
theorem test_sub_wraps :
    leaves (step (start 0x100 (.full 0x40C58533) [(11, 0x80000000), (12, 1)])) 10 = some (0x104, 0x7FFFFFFF) := by decide
theorem test_sub_from_x0 :
    leaves (step (start 0x100 (.full 0x40C00533) [(12, 1)])) 10 = some (0x104, 0xFFFFFFFF) := by decide
theorem test_slt_signed :
    leaves (step (start 0x100 (.full 0x00C5A533) [(11, 0xFFFFFFFF), (12, 1)])) 10 = some (0x104, 1) := by decide
theorem test_slt_max_min :
    leaves (step (start 0x100 (.full 0x00C5A533) [(11, 0x7FFFFFFF), (12, 0x80000000)])) 10 = some (0x104, 0) := by decide
theorem test_sltu_unsigned :
    leaves (step (start 0x100 (.full 0x00C5B533) [(11, 0xFFFFFFFF), (12, 1)])) 10 = some (0x104, 0) := by decide
theorem test_sltu_x0 : leaves (step (start 0x100 (.full 0x00C03533) [(12, 5)])) 10 = some (0x104, 1) := by decide
theorem test_and :
    leaves (step (start 0x100 (.full 0x00C5F533) [(11, 0xFF00FF00), (12, 0xFF00FF0)])) 10 = some (0x104, 0xF000F00) := by decide
theorem test_or :
    leaves (step (start 0x100 (.full 0x00C5E533) [(11, 0xFF00FF00), (12, 0xFF00FF0)])) 10 = some (0x104, 0xFFF0FFF0) := by decide
theorem test_xor :
    leaves (step (start 0x100 (.full 0x00C5C533) [(11, 0xFF00FF00), (12, 0xFF00FF0)])) 10 = some (0x104, 0xF0F0F0F0) := by decide
theorem test_sll_low_five_bits :
    leaves (step (start 0x100 (.full 0x00C59533) [(11, 0xFFFF), (12, 0xFFFFFFE4)])) 10 = some (0x104, 0xFFFF0) := by decide
theorem test_sll_by_32_is_0 :
    leaves (step (start 0x100 (.full 0x00C59533) [(11, 1), (12, 0x20)])) 10 = some (0x104, 1) := by decide
theorem test_srl_zero_fill :
    leaves (step (start 0x100 (.full 0x00C5D533) [(11, 0x80000000), (12, 0x24)])) 10 = some (0x104, 0x8000000) := by decide
theorem test_sra_sign_fill :
    leaves (step (start 0x100 (.full 0x40C5D533) [(11, 0x80000000), (12, 0x24)])) 10 = some (0x104, 0xF8000000) := by decide
theorem test_sra_of_a_positive :
    leaves (step (start 0x100 (.full 0x40C5D533) [(11, 0x40000000), (12, 4)])) 10 = some (0x104, 0x4000000) := by decide
theorem test_addi_smallest :
    leaves (step (start 0x100 (.full 0x80000513) [])) 10 = some (0x104, 0xFFFFF800) := by decide
theorem test_addi_largest_wraps :
    leaves (step (start 0x100 (.full 0x7FF58513) [(11, 0x7FFFFFFF)])) 10 = some (0x104, 0x800007FE) := by decide
theorem test_slti_smallest :
    leaves (step (start 0x100 (.full 0x8005A513) [(11, 0x80000000)])) 10 = some (0x104, 1) := by decide
theorem test_slti_equal : leaves (step (start 0x100 (.full 0x0055A513) [(11, 5)])) 10 = some (0x104, 0) := by decide
theorem test_sltiu_zero_extended :
    leaves (step (start 0x100 (.full 0x8005B513) [(11, 0x900)] (ext := .zero))) 10 = some (0x104, 0) := by decide
theorem test_sltiu_sign_extended :
    leaves (step (start 0x100 (.full 0x8005B513) [(11, 0x900)])) 10 = some (0x104, 1) := by decide
theorem test_andi_sign_extended :
    leaves (step (start 0x100 (.full 0xF005F513) [(11, 0x12345678)])) 10 = some (0x104, 0x12345600) := by decide
theorem test_ori :
    leaves (step (start 0x100 (.full 0x0555E513) [(11, 0x12345600)])) 10 = some (0x104, 0x12345655) := by decide
theorem test_ori_minus_1 :
    leaves (step (start 0x100 (.full 0xFFF5E513) [(11, 0x12345678)])) 10 = some (0x104, 0xFFFFFFFF) := by decide
theorem test_xori_not :
    leaves (step (start 0x100 (.full 0xFFF5C513) [(11, 0x12345678)])) 10 = some (0x104, 0xEDCBA987) := by decide
theorem test_slli :
    leaves (step (start 0x100 (.full 0x00459513) [(11, 0x12345678)])) 10 = some (0x104, 0x23456780) := by decide
theorem test_slli_by_0 :
    leaves (step (start 0x100 (.full 0x00059513) [(11, 0x12345678)])) 10 = some (0x104, 0x12345678) := by decide
theorem test_srli :
    leaves (step (start 0x100 (.full 0x0045D513) [(11, 0x80000010)])) 10 = some (0x104, 0x8000001) := by decide
theorem test_srai :
    leaves (step (start 0x100 (.full 0x4045D513) [(11, 0x80000010)])) 10 = some (0x104, 0xF8000001) := by decide
theorem test_lw_largest_offset :
    leaves (step (start 0x100 (.full 0x7FF5A503) [(11, 0x1001)] (bytesFrom 0x1800 [1, 0, 0, 0x80]))) 10 = some (0x104, 0x80000001) := by decide
theorem test_lw_base_is_destination :
    leaves (step (start 0x100 (.full 0x0005A583) [(11, 0x1000)] (bytesFrom 0x1000 [0x10, 0x20, 0x30, 0x40]))) 11 = some (0x104, 0x40302010) := by decide
theorem test_lh_sign_extends :
    leaves (step (start 0x100 (.full 0x00259503) [(11, 0x1000)] (bytesFrom 0x1002 [0xCD, 0xAB]))) 10 = some (0x104, 0xFFFFABCD) := by decide
theorem test_lh_positive :
    leaves (step (start 0x100 (.full 0x00259503) [(11, 0x1000)] (bytesFrom 0x1002 [0x34, 0x12]))) 10 = some (0x104, 0x1234) := by decide
theorem test_lhu_zero_extends :
    leaves (step (start 0x100 (.full 0x0025D503) [(11, 0x1000)] (bytesFrom 0x1002 [0xCD, 0xAB]))) 10 = some (0x104, 0xABCD) := by decide
theorem test_lb_sign_extends :
    leaves (step (start 0x100 (.full 0x00358503) [(11, 0x1000)] (bytesFrom 0x1003 [0x80]))) 10 = some (0x104, 0xFFFFFF80) := by decide
theorem test_lb_address_wraps :
    leaves (step (start 0x100 (.full 0xFFF00503) [] (bytesFrom 0xFFFFFFFF [0x5A]))) 10 = some (0x104, 0x5A) := by decide
theorem test_lbu_zero_extends :
    leaves (step (start 0x100 (.full 0x0035C503) [(11, 0x1000)] (bytesFrom 0x1003 [0x80]))) 10 = some (0x104, 0x80) := by decide
theorem test_sw_negative_offset :
    wordOf (step (start 0x100 (.full 0xFE112E23) [(1, 0x104), (2, 0x2000)] (bytesFrom 0x1FFC [0xFF, 0xFF, 0xFF, 0xFF]))) 0x1FFC = some (0x104, [4, 1, 0, 0]) := by decide
theorem test_sw_x0 :
    wordOf (step (start 0x100 (.full 0x0005A023) [(11, 0x1000)] (bytesFrom 0x1000 [0xFF, 0xFF, 0xFF, 0xFF]))) 0x1000 = some (0x104, [0, 0, 0, 0]) := by decide
theorem test_sh_low_half_only :
    wordOf (step (start 0x100 (.full 0x00A59123) [(10, 0xDEADBEEF), (11, 0x1000)] (bytesFrom 0x1000 [0x11, 0x22, 0x33, 0x44]))) 0x1000 = some (0x104, [0x11, 0x22, 0xEF, 0xBE]) := by decide
theorem test_sb_low_byte_only :
    wordOf (step (start 0x100 (.full 0x00A581A3) [(10, 0xDEADBEEF), (11, 0x1000)] (bytesFrom 0x1000 [0x11, 0x22, 0x33, 0x44]))) 0x1000 = some (0x104, [0x11, 0x22, 0x33, 0xEF]) := by decide
theorem test_lui_clears_low_bits :
    leaves (step (start 0x100 (.full 0xFFFFF537) [(10, 0xFFF)])) 10 = some (0x104, 0xFFFFF000) := by decide
theorem test_lui_x0 : leaves (step (start 0x100 (.full 0x00001037) [])) 0 = some (0x104, 0) := by decide
theorem test_auipc_at_2_mod_4 :
    leaves (step (start 0x246A (.full 0x00000517) [])) 10 = some (0x246E, 0x246A) := by decide
theorem test_auipc_wraps :
    leaves (step (start 0x800 (.full 0xFFFFF517) [])) 10 = some (0x804, 0xFFFFF800) := by decide
theorem test_jal_smallest : leaves (step (start 0x100000 (.full 0x800000EF) [])) 1 = some (0, 0x100004) := by decide
theorem test_jal_wraps : leaves (step (start 0xFFFFFFFC (.full 0x008000EF) [])) 1 = some (4, 0) := by decide
theorem test_jalr_clears_bit_0 :
    leaves (step (start 0x100 (.full 0xFFD500E7) [(10, 0x204)])) 1 = some (0x200, 0x104) := by decide
theorem test_jalr_base_is_destination :
    leaves (step (start 0x100 (.full 0x004080E7) [(1, 0x300)])) 1 = some (0x304, 0x104) := by decide
theorem test_beq_smallest :
    leaves (step (start 0x2000 (.full 0x80000063) [])) 1 = some (0x1000, 0xA5A5A5A5) := by decide
theorem test_beq_not_taken :
    leaves (step (start 0x100 (.full 0x00B50463) [(10, 5), (11, 6)])) 10 = some (0x104, 5) := by decide
theorem test_bne_taken :
    leaves (step (start 0x100 (.full 0xFEB51EE3) [(10, 5), (11, 6)])) 10 = some (0xFC, 5) := by decide
theorem test_bne_not_taken :
    leaves (step (start 0x100 (.full 0xFE051CE3) [(10, 0)])) 10 = some (0x104, 0) := by decide
theorem test_blt_signed_taken :
    leaves (step (start 0x100 (.full 0x00B54863) [(10, 0xFFFFFFFF), (11, 1)])) 10 = some (0x110, 0xFFFFFFFF) := by decide
theorem test_blt_equal :
    leaves (step (start 0x100 (.full 0x00B54863) [(10, 7), (11, 7)])) 10 = some (0x104, 7) := by decide
theorem test_bge_equal :
    leaves (step (start 0x100 (.full 0x00B55863) [(10, 7), (11, 7)])) 10 = some (0x110, 7) := by decide
theorem test_bge_min_max :
    leaves (step (start 0x100 (.full 0x00B55863) [(10, 0x80000000), (11, 0x7FFFFFFF)])) 10 = some (0x104, 0x80000000) := by decide
theorem test_bltu_taken :
    leaves (step (start 0x100 (.full 0x00B56863) [(10, 1), (11, 0xFFFFFFFF)])) 10 = some (0x110, 1) := by decide
theorem test_bltu_not_taken :
    leaves (step (start 0x100 (.full 0x00B56863) [(10, 0xFFFFFFFF), (11, 1)])) 10 = some (0x104, 0xFFFFFFFF) := by decide
theorem test_bgeu_taken :
    leaves (step (start 0x100 (.full 0x00B57863) [(10, 0xFFFFFFFF), (11, 1)])) 10 = some (0x110, 0xFFFFFFFF) := by decide
theorem test_bgeu_not_taken :
    leaves (step (start 0x100 (.full 0x00B57863) [(10, 0), (11, 1)])) 10 = some (0x104, 0) := by decide
theorem test_fence_ignores_its_fields :
    leaves (step (start 0x100 (.full 0x0FFF8F8F) [])) 1 = some (0x104, 0xA5A5A5A5) := by decide
theorem test_fence_of_the_source :
    leaves (step (start 0x100 (.full 0x0000000F) [])) 1 = some (0x104, 0xA5A5A5A5) := by decide
theorem test_ebreak : trapOf (step (start 0x200 (.full 0x00100073) [])) = some (.breakpoint, 0x200, none) := by decide
theorem test_ecall :
    trapOf (step (start 0x10C (.full 0x00000073) [(10, 1), (15, 0x5D)])) = some (.environmentCall, 0x10C, none) := by decide
theorem test_c_ebreak : trapOf (step (start 0x100 (.half 0x9002) [])) = some (.breakpoint, 0x100, none) := by decide
theorem test_c_illegal :
    trapOf (step (start 0x100 (.half 0x0000) [])) = some (.illegalInstruction, 0x100, some 0) := by decide
theorem test_res_c_addi4spn :
    trapOf (step (start 0x100 (.half 0x0004) [(2, 0x1000)])) = some (.illegalInstruction, 0x100, some 4) := by decide
theorem test_res_c_lui_before_hint :
    trapOf (step (start 0x100 (.half 0x6001) [])) = some (.illegalInstruction, 0x100, some 0x6001) := by decide
theorem test_nse_c_srli :
    trapOf (step (start 0x100 (.half 0x9105) [(10, 5)])) = some (.illegalInstruction, 0x100, some 0x9105) := by decide
theorem test_nse_c_slli_before_hint :
    trapOf (step (start 0x100 (.half 0x1006) [])) = some (.illegalInstruction, 0x100, some 0x1006) := by decide
theorem test_res_c_lwsp_makes_no_access :
    trapOf (step (start 0x100 (.half 0x4022) [(2, 0x2000)] (bytesFrom 0x2008 [0, 0, 0, 0]))) = some (.illegalInstruction, 0x100, some 0x4022) := by decide
theorem test_res_c_jr :
    trapOf (step (start 0x100 (.half 0x8002) [])) = some (.illegalInstruction, 0x100, some 0x8002) := by decide
theorem test_c_lw_misaligned :
    trapOf (step (start 0x100 (.half 0x4588) [(11, 0x1002)] (bytesFrom 0x1008 [1, 2, 3, 4, 5, 6, 7, 8]))) = some (.loadAddressMisaligned, 0x100, some 0x100A) := by decide
theorem test_c_lwsp_no_memory :
    trapOf (step (start 0x100 (.half 0x4512) [(2, 0x7000)])) = some (.loadAccessFault, 0x100, some 0x7004) := by decide
theorem test_c_sw_misaligned :
    trapOf (step (start 0x100 (.half 0xC1C8) [(10, 0xDEADBEEF), (11, 0x1001)] (bytesFrom 0x1004 [0, 0, 0, 0, 0, 0, 0, 0]))) = some (.storeAddressMisaligned, 0x100, some 0x1005) := by decide
theorem test_lw_last_byte_missing :
    trapOf (step (start 0x100 (.full 0x0005A503) [(11, 0x1000)] (bytesFrom 0x1000 [1, 2, 3]))) = some (.loadAccessFault, 0x100, some 0x1000) := by decide
theorem test_lw_x0_still_faults :
    trapOf (step (start 0x100 (.full 0x0005A003) [(11, 0x5000)])) = some (.loadAccessFault, 0x100, some 0x5000) := by decide
theorem test_sw_half_outside :
    trapOf (step (start 0x100 (.full 0x00A5A023) [(10, 0xFFFFFFFF), (11, 0x1000)] (bytesFrom 0x1000 [0, 0]))) = some (.storeAccessFault, 0x100, some 0x1000) := by decide
theorem test_sh_misaligned :
    trapOf (step (start 0x100 (.full 0x00A590A3) [(10, 1), (11, 0x1000)] (bytesFrom 0x1000 [0, 0, 0, 0]))) = some (.storeAddressMisaligned, 0x100, some 0x1001) := by decide
theorem test_register_17 :
    trapOf (step (start 0x100 (.half 0x4885) [])) = some (.illegalInstruction, 0x100, some 0x4885) := by decide
theorem test_register_31_before_hint :
    trapOf (step (start 0x100 (.half 0x807E) [])) = some (.illegalInstruction, 0x100, some 0x807E) := by decide
theorem test_register_16 :
    trapOf (step (start 0x100 (.full 0x01058533) [(11, 4)])) = some (.illegalInstruction, 0x100, some 0x1058533) := by decide
theorem test_mul_word :
    trapOf (step (start 0x100 (.full 0x02C58533) [(11, 3), (12, 4)])) = some (.illegalInstruction, 0x100, some 0x2C58533) := by decide
theorem test_csr_word :
    trapOf (step (start 0x100 (.full 0x30001073) [])) = some (.illegalInstruction, 0x100, some 0x30001073) := by decide
theorem test_custom_0 :
    trapOf (step (start 0x100 (.full 0x0000000B) [])) = some (.illegalInstruction, 0x100, some 0xB) := by decide
theorem test_jalr_funct3 :
    trapOf (step (start 0x100 (.full 0x000510E7) [(10, 0x200)])) = some (.illegalInstruction, 0x100, some 0x510E7) := by decide

/-- Right after reset, with FENCE placed where the first fetch is (R302; log 17). -/
theorem test_reset_runs_the_placed_word : leaves (step (State.reset.withFetchWord 32 0x0FF0000F)) 0 = some (4, 0) := by decide

/-- R52: a store into `CODE_REGION` is refused. -/
theorem test_store_into_code_is_refused :
    step (withCode (start 0x100 (.half 0xC1C8) [(11, 0x1000)] (bytesFrom 0x1004 [0, 0, 0, 0])) [⟨0x1007, 1⟩])
      = .refused (.codeRegionStore 0x1004) := rfl

/-! ### Witnesses: the hypotheses of the statements, met together

Each theorem is named after its statement. Where a statement's clauses divide one input, there is one for each clause, at the
values where the clauses meet. -/

theorem witness_DecodeOfEncode : (Instr.cLui 1 1).WellFormed = true ∧ (Instr.cLui 15 63).WellFormed = true
    ∧ (Instr.cAdd 15 1).WellFormed = true ∧ (Instr.fence 0 0).WellFormed = true := by decide

theorem witness_EncodeOfDecode : decode (.half 0x7501) = .ok (.cLui 10 32) ∧ encode (.cLui 10 32) = .half 0x7501 := by decide

theorem witness_HighRegisterFieldIsIllegal :
    (fetched (start 0x100 (.half 0x8806) []) = some (.half 0x8806) ∧ namesHighRegister (.half 0x8806) = true)
    ∧ (fetched (start 0x100 (.half 0x807E) []) = some (.half 0x807E) ∧ namesHighRegister (.half 0x807E) = true)
    ∧ (fetched (start 0x100 (.full 0x01058533) []) = some (.full 0x01058533) ∧ namesHighRegister (.full 0x01058533) = true)
    ∧ fetched (start 0x100 (.full 0x00001837) []) = some (.full 0x00001837)
    ∧ namesHighRegister (.full 0x00001837) = true := by decide

/-- Register 15 and the FENCE fields are no high registers. -/
theorem witness_namesHighRegister_boundary : namesHighRegister (.half 0x87BE) = false
    ∧ namesHighRegister (.full 0x00F787B3) = false ∧ namesHighRegister (.full 0x0FFF8F8F) = false := by decide

theorem witness_WordsOutsideTheSetAreIllegal_no_row :
    ∃ s w, State.fetch s = .next w ∧ ∀ i, decode w = .ok i → i.kind ≠ .instruction ∧ i.kind ≠ .hint :=
  ⟨start 0x100 (.full 0x0000000B) [], .full 0x0000000B, fetch_of_fetched (by decide),
    fun i h => absurd h (by rw [show decode (.full 0x0000000B) = .error .unlistedOpcode from by decide]; exact nofun)⟩

theorem witness_WordsOutsideTheSetAreIllegal_illegal_row :
    ∃ s w, State.fetch s = .next w ∧ ∀ i, decode w = .ok i → i.kind ≠ .instruction ∧ i.kind ≠ .hint :=
  ⟨start 0x100 (.half 0x2000) [], .half 0x2000, fetch_of_fetched (by decide), fun i h => by
    rw [show decode (.half 0x2000) = .ok (.niCFld 0) from by decide] at h; cases h; decide⟩

/-- Each of the four opcodes: OP with funct7 `0000001`, OP-IMM with `inst[30]` in SLLI and `inst[31]` in SRAI, SYSTEM 2,
FENCE.I. -/
theorem witness_UnlistedFunctionCodesAreIllegal :
    fetched (start 0x100 (.full 0x02C58533) []) = some (.full 0x02C58533)
    ∧ fetched (start 0x100 (.full 0x40459513) []) = some (.full 0x40459513)
    ∧ fetched (start 0x100 (.full 0xC045D513) []) = some (.full 0xC045D513)
    ∧ fetched (start 0x100 (.full 0x00200073) []) = some (.full 0x00200073)
    ∧ fetched (start 0x100 (.full 0x0000100F) []) = some (.full 0x0000100F)
    ∧ ((0x02C58533 : Word).extractLsb' 0 7 = 0b0110011#7 ∧ (0x02C58533 : Word).extractLsb' 25 7 ≠ 0b0000000#7
      ∧ ¬ (0x02C58533 : Word).extractLsb' 25 7 = 0b0100000#7)
    ∧ ((0x40459513 : Word).extractLsb' 12 3 = 0b001#3 ∧ (0x40459513 : Word).extractLsb' 25 7 ≠ 0b0000000#7)
    ∧ ((0xC045D513 : Word).extractLsb' 12 3 = 0b101#3 ∧ (0xC045D513 : Word).extractLsb' 25 7 ≠ 0b0100000#7)
    ∧ ((0x00200073 : Word).extractLsb' 0 7 = 0b1110011#7 ∧ (0x0000100F : Word).extractLsb' 12 3 ≠ 0b000#3) := by decide

theorem witness_Quadrant0ReservedWordsTrap : decode (.half 0x0004) = .ok (.resCAddi4spn 1)
    ∧ decode (.half 0x001C) = .ok (.resCAddi4spn 7) ∧ decode (.half 0x3FFC) = .ok (.niCFld 0x7FF) := by decide

theorem witness_Quadrant1ReservedWordsTrap : decode (.half 0x6001) = .ok (.resCLui 0) ∧ decode (.half 0x6081) = .ok (.resCLui 1)
    ∧ decode (.half 0x6F81) = .ok (.resCLui 31) ∧ decode (.half 0x6101) = .ok .resCAddi16sp := by decide

theorem witness_Quadrant2ReservedWordsTrap : decode (.half 0x0F82) = .ok (.resCSlli 31)
    ∧ decode (.half 0x507E) = .ok (.resCLwsp 63) := by decide

/-- The bytes of a word at `pc`, for both lengths and where the addresses wrap. -/
theorem witness_StepRunsTheDecodedInstruction :
    (decode (.half 0x952E) = .ok (.cAdd 10 11)
      ∧ ∀ k, (h : k < (InstWord.half 0x952E).bytes.length) →
        (start 0xFFFFFFFE (.half 0x952E) []).valid (byteAt 0xFFFFFFFE k) = true
          ∧ (start 0xFFFFFFFE (.half 0x952E) []).launched (byteAt 0xFFFFFFFE k) = true
          ∧ (start 0xFFFFFFFE (.half 0x952E) []).readByte (byteAt 0xFFFFFFFE k) = (InstWord.half 0x952E).bytes[k])
    ∧ decode (.full 0x00C58533) = .ok (.add 10 11 12)
    ∧ ∀ k, (h : k < (InstWord.full 0x00C58533).bytes.length) →
      (start 0xFFFFFFFE (.full 0x00C58533) []).valid (byteAt 0xFFFFFFFE k) = true
        ∧ (start 0xFFFFFFFE (.full 0x00C58533) []).launched (byteAt 0xFFFFFFFE k) = true
        ∧ (start 0xFFFFFFFE (.full 0x00C58533) []).readByte (byteAt 0xFFFFFFFE k)
          = (InstWord.full 0x00C58533).bytes[k] := by decide

/-- A half word with only its two bytes valid; a full word; each at an even `pc` and as launched. -/
theorem witness_FetchReadsParcels_valid :
    ((0x100 : Word).getLsbD 0 = false ∧ AllValid (start 0x100 (.half 0x952E) []) 2 0x100
      ∧ Launched (start 0x100 (.half 0x952E) []) 2 0x100 ∧ fetched (start 0x100 (.half 0x952E) []) = some (.half 0x952E))
    ∧ AllValid (start 0x100 (.full 0x00C58533) []) 4 0x100 ∧ Launched (start 0x100 (.full 0x00C58533) []) 4 0x100
    ∧ fetched (start 0x100 (.full 0x00C58533) []) = some (.full 0x00C58533) := by decide

/-- A first parcel that says 32 bits with no second; a parcel of one byte. -/
theorem witness_FetchReadsParcels_fault :
    (AllValid (start 0x100 (.half 0x0003) []) 2 0x100 ∧ Launched (start 0x100 (.half 0x0003) []) 2 0x100 ∧ ¬ AllValid (start 0x100 (.half 0x0003) []) 4 0x100
      ∧ trapOf (step (start 0x100 (.half 0x0003) [])) = some (.instructionAccessFault, 0x100, some 0x100))
    ∧ ¬ AllValid ((start 0x100 (.half 0x0003) []).setPc 0x102) 2 0x102
    ∧ trapOf (step ((start 0x100 (.half 0x0003) []).setPc 0x102)) = some (.instructionAccessFault, 0x102, some 0x102) := by
  decide

theorem witness_PlacedWordIsRunNext : decode (.half 0x952E) = .ok (.cAdd 10 11) ∧ decode (.full 0x00100073) = .ok .ebreak
    ∧ trapOf (step ((start 0xFFFFFFFE (.half 1) []).withFetchWord 32 0x00100073)) = some (.breakpoint, 0xFFFFFFFE, none) := by
  decide

/-- A word with both a reserved and a hint form traps; a misaligned access outside memory is misaligned first; a valid one
does not trap; a store into code is refused, and so is a fetch of a changed byte. -/
theorem witness_StopsAreExactlyTheListedOnes :
    trapOfStep (start 0x100 (.half 0x6001) []) = some (.illegalInstruction, some 0x6001)
    ∧ trapOfStep (start 0x100 (.half 0x4588) [(11, 0x5002)]) = some (.loadAddressMisaligned, some 0x500A)
    ∧ trapOfStep (start 0x100 (.half 0x952E) []) = none
    ∧ refusalOfStep (withCode (start 0x100 (.half 0xC1C8) [(11, 0x1000)] (bytesFrom 0x1004 [0, 0, 0, 0])) [⟨0x1007, 1⟩])
      = some (.codeRegionStore 0x1004)
    ∧ refusalOfStep ((start 0x100 (.half 0x952E) []).setMem [(0x100, 0x2E), (0x101, 0x94)]) = some (.selfModifiedCode 0x100)
    ∧ refusalOfStep (withCode (start 0x100 (.half 0xC1C8) [(11, 0x1000)] (bytesFrom 0x1004 [0, 0, 0, 0])) [⟨0x1008, 1⟩])
      = none := by decide

theorem witness_AdvanceByInstructionLength : ∃ w i s t, decode w = .ok i ∧ writesPc i = false ∧ exec i s = .next t :=
  ⟨.half 0x952E, .cAdd 10 11, start 0xFFFFFFFE (.half 0x952E) [], _, by decide, by decide, eq_next State.reset (by decide)⟩

/-- `q` a register that is not the destination, and `x0` where it is. -/
theorem witness_OnlyTheDestinationChanges :
    (∃ s t, exec (.add 10 11 12) s = .next t) ∧ destination (.add 10 11 12) ≠ some 11
    ∧ destination (.add 10 11 12) ≠ some 0 ∧ destination (.sw 10 11 0) ≠ some 10 :=
  ⟨⟨start 0x100 (.full 0x00C58533) [], _, eq_next State.reset (by decide)⟩, by decide⟩

/-- The addresses just below and just above the stored bytes, and inside a store-free instruction any address. -/
theorem witness_OnlyStoredBytesChange :
    (∃ t, exec (.sh 10 11 2) (start 0x100 (.full 0x00A59123) [(11, 0x1000)] (bytesFrom 0x1000 [1, 2, 3, 4])) = .next t)
    ∧ storeAccess (start 0x100 (.full 0x00A59123) [(11, 0x1000)]) (.sh 10 11 2) = some (2, 0x1002)
    ∧ (∀ k, k < 2 → (0x1001 : Word) ≠ byteAt 0x1002 k) ∧ (∀ k, k < 2 → (0x1004 : Word) ≠ byteAt 0x1002 k)
    ∧ storeAccess (start 0x100 (.full 0x00A59123) [(11, 0x1000)]) (.lh 10 11 2) = none :=
  ⟨⟨_, eq_next State.reset (by decide)⟩, by decide⟩

theorem witness_StepKeepsInvariant : ∃ s t, State.Inv s ∧ step s = .next t :=
  ⟨start 0x100 (.half 0xC1C8) [(11, 0x1000)] (bytesFrom 0x1004 [0, 0, 0, 0]), _, by decide, eq_next State.reset (by decide)⟩

/-- A launch whose code ends at the last byte of its image. -/
def smallLaunch : Launch := ⟨[⟨0x100, 8⟩], bytesFrom 0x100 [0x2E, 0x95, 0x02, 0x90], [⟨0x100, 4⟩], 0x100, Vector.replicate 15 0, .sign,
  CimState.reset⟩

theorem witness_LaunchMeetsInvariant : smallLaunch.wf = true := by decide

/-- One step inside a code region, and a store that reaches the region with its last byte. -/
theorem witness_CodeRegionNeverChanges :
    (∃ t, Host.Core.run Sys2Proof.core 1 (State.launch smallLaunch) = .next t ∧ (State.launch smallLaunch).inCode 0x103 = true)
    ∧ (∀ k, k < 4 → (State.launch smallLaunch).inCode (byteAt 0x100 k) = true)
    ∧ storeAccess (withCode (start 0x100 (.half 0xC1C8) [(11, 0x1000)] (bytesFrom 0x1004 [0, 0, 0, 0])) [⟨0x1007, 1⟩])
      (.cSw 2 3 1) = some (4, 0x1004)
    ∧ AllValid (start 0x100 (.half 0xC1C8) [(11, 0x1000)] (bytesFrom 0x1004 [0, 0, 0, 0])) 4 0x1004
    ∧ ¬ OutsideCode (withCode (start 0x100 (.half 0xC1C8) [(11, 0x1000)] (bytesFrom 0x1004 [0, 0, 0, 0])) [⟨0x1007, 1⟩])
      4 0x1004 :=
  ⟨⟨_, eq_next State.reset (by decide), by decide⟩, by decide, by decide, by decide, by decide⟩

theorem witness_CimUnitAndParametersAreInert : ∃ t, Host.Core.run Sys2Proof.core 1 (State.launch smallLaunch) = .next t :=
  ⟨_, eq_next State.reset (by decide)⟩

/-- The first and the last register; the first and the last byte of an image; a byte it does not list. -/
theorem witness_LaunchState : (0 < 15 ∧ 14 < 15)
    ∧ Memory.byte? smallLaunch.image (0x100 : Word).toNat = some 0x2E
    ∧ Memory.byte? smallLaunch.image (0x103 : Word).toNat = some 0x90
    ∧ (State.launch smallLaunch).readReg 15 = 0 ∧ (State.launch smallLaunch).launched 0x107 = true := by decide

theorem witness_RegisterZeroAndReadAfterWrite :
    ((start 0x100 (.half 1) []).writeReg 1 5).readReg 1 = 5 ∧ ((start 0x100 (.half 1) []).writeReg 15 5).readReg 15 = 5
    ∧ ((start 0x100 (.half 1) []).writeReg 15 5).readReg 14 = 0xA5A5A5A5 := by decide

/-- A machine with the four bytes `0x1000` to `0x1003` as data, the last one in `CODE_REGION` where asked. -/
def fourBytes (i : InstWord) (code : List Span) : State :=
  withCode (start 0x100 i [(2, 0x1000), (10, 0x1000), (11, 0x1000)] (bytesFrom 0x1000 [0x80, 1, 0x7F, 0xFF])) code

/-- Every clause of the access rules: aligned and valid at the last address each width admits, misaligned just after it, and
outside memory at the next aligned one. -/
theorem witness_access_clauses :
    ((0x1000 : Word).toNat % 4 = 0 ∧ AllValid (fourBytes (.half 1) []) 4 0x1000)
    ∧ ((0x1002 : Word).toNat % 2 = 0 ∧ AllValid (fourBytes (.half 1) []) 2 0x1002)
    ∧ ((0x1003 : Word).toNat % 1 = 0 ∧ AllValid (fourBytes (.half 1) []) 1 0x1003)
    ∧ (0x1001 : Word).toNat % 4 ≠ 0 ∧ (0x1003 : Word).toNat % 2 ≠ 0
    ∧ ((0x1004 : Word).toNat % 4 = 0 ∧ ¬ AllValid (fourBytes (.half 1) []) 4 0x1004)
    ∧ ¬ AllValid (fourBytes (.half 1) []) 1 0x1004 := by decide

/-- The `CODE_REGION` clause of a store: a region that is the last byte of the word, and one just after it. -/
theorem witness_code_clauses :
    ¬ OutsideCode (fourBytes (.half 1) [⟨0x1003, 1⟩]) 4 0x1000 ∧ OutsideCode (fourBytes (.half 1) [⟨0x1004, 1⟩]) 4 0x1000
    ∧ OutsideCode (fourBytes (.half 1) [⟨0x1003, 1⟩]) 2 0x1000
    ∧ ¬ OutsideCode (fourBytes (.half 1) [⟨0x1003, 1⟩]) 1 0x1003 := by decide

theorem witness_MemReadByItsPseudocode :
    (fourBytes (.half 1) []).memRead .word 0x1000 = .ok 0xFF7F0180#32
    ∧ (fourBytes (.half 1) []).memRead .half 0x1002 = .ok 0xFF7F#16
    ∧ (fourBytes (.half 1) []).memRead .half 0x1003 = .error .loadAddressMisaligned
    ∧ (fourBytes (.half 1) []).memRead .word 0x1004 = .error .loadAccessFault := by decide

theorem witness_MemWriteByItsPseudocode :
    isNext ((fourBytes (.half 1) []).memWrite .word 0x1000 5#32) = true
    ∧ trapOf ((fourBytes (.half 1) []).memWrite .half 0x1003 5#16) = some (.storeAddressMisaligned, 0x100, some 0x1003)
    ∧ trapOf ((fourBytes (.half 1) []).memWrite .byte 0x1004 5#8) = some (.storeAccessFault, 0x100, some 0x1004) := by decide

theorem witness_MixedWidthAccessSeesLittleEndianBytes :
    ∃ t, (fourBytes (.half 1) []).memWrite .word 0x1000 0x12345678#32 = .next t :=
  ⟨_, eq_next State.reset (by decide)⟩

/-- The two accesses next to each other. -/
theorem witness_LoadSeesTheMostRecentStore :
    (∃ t, (fourBytes (.half 1) []).memWrite .half 0x1000 0x1234#16 = .next t)
    ∧ ∀ j k, j < Width.bytes .half → k < Width.bytes .half → byteAt 0x1000 j ≠ byteAt 0x1002 k := by
  refine ⟨⟨_, eq_next State.reset (by decide)⟩, fun j k hj hk => ?_⟩
  simp only [Width.bytes] at hj hk
  interval_cases j <;> interval_cases k <;> decide

theorem witness_SltiuFollowsItsOpenParameter :
    (start 0x100 (.full 0x8005B513) [] (ext := .zero)).params.sltiuImmExt = .zero
    ∧ (start 0x100 (.full 0x8005B513) []).params.sltiuImmExt = .sign := by decide

/-- R272: `0xDEADBEEF` has bit 11 set, `0x12345678` has not; the field of `0xFFFFFFFF` wraps to 0. -/
theorem witness_LuiThenAddiBuildsAnyConstant : (1 : Reg) ≠ 0
    ∧ (0xDEADBEEF : Word).extractLsb' 12 20 + (if (0xDEADBEEF : Word).getLsbD 11 then 1 else 0) = 0xDEADC#20
    ∧ (0x12345678 : Word).extractLsb' 12 20 + (if (0x12345678 : Word).getLsbD 11 then 1 else 0) = 0x12345#20
    ∧ (0xFFFFFFFF : Word).extractLsb' 12 20 + (if (0xFFFFFFFF : Word).getLsbD 11 then 1 else 0) = 0#20 := by decide

/-- Each clause of the loads, through their own addresses. -/
theorem witness_LoadResults :
    (effAddr (fourBytes (.half 1) []) 11 0 = 0x1000 ∧ AllValid (fourBytes (.half 1) []) 4 (effAddr (fourBytes (.half 1) []) 11 0))
    ∧ ((effAddr (fourBytes (.half 1) []) 11 3).toNat % 2 ≠ 0 ∧ (effAddr (fourBytes (.half 1) []) 11 2).toNat % 4 ≠ 0)
    ∧ AllValid (fourBytes (.half 1) []) 2 (effAddr (fourBytes (.half 1) []) 11 2)
    ∧ AllValid (fourBytes (.half 1) []) 1 (effAddr (fourBytes (.half 1) []) 11 3)
    ∧ ¬ AllValid (fourBytes (.half 1) []) 1 (effAddr (fourBytes (.half 1) []) 11 0xFFF) := by decide

/-- The store clause that no load has: one byte of the access in `CODE_REGION`. -/
theorem witness_StoreResults :
    (effAddr (fourBytes (.half 1) [⟨0x1003, 1⟩]) 11 0 = 0x1000 ∧ ¬ OutsideCode (fourBytes (.half 1) [⟨0x1003, 1⟩]) 4 0x1000)
    ∧ (effAddr (fourBytes (.half 1) [⟨0x1003, 1⟩]) 11 2 = 0x1002 ∧ ¬ OutsideCode (fourBytes (.half 1) [⟨0x1003, 1⟩]) 2 0x1002)
    ∧ OutsideCode (fourBytes (.half 1) [⟨0x1003, 1⟩]) 1 (effAddr (fourBytes (.half 1) []) 11 2) := by decide

theorem witness_CompressedLoadResults : (15 : Reg) ≠ 0 ∧ clAddr (fourBytes (.half 1) []) 3 0 = 0x1000
    ∧ AllValid (fourBytes (.half 1) []) 4 (clAddr (fourBytes (.half 1) []) 3 0)
    ∧ ¬ AllValid (fourBytes (.half 1) []) 4 (clAddr (fourBytes (.half 1) []) 3 1)
    ∧ AllValid (fourBytes (.half 1) []) 4 (spAddr (fourBytes (.half 1) []) 0)
    ∧ ¬ AllValid (fourBytes (.half 1) []) 4 (spAddr (fourBytes (.half 1) []) 63)
    ∧ (clAddr ((fourBytes (.half 1) []).writeReg 11 0x1001) 3 0).toNat % 4 ≠ 0
    ∧ (spAddr ((fourBytes (.half 1) []).writeReg 2 0x1002) 0).toNat % 4 ≠ 0 := by decide

theorem witness_CompressedStoreResults :
    ¬ OutsideCode (fourBytes (.half 1) [⟨0x1003, 1⟩]) 4 (clAddr (fourBytes (.half 1) []) 3 0)
    ∧ ¬ OutsideCode (fourBytes (.half 1) [⟨0x1003, 1⟩]) 4 (spAddr (fourBytes (.half 1) []) 0)
    ∧ OutsideCode (fourBytes (.half 1) [⟨0x1004, 1⟩]) 4 (spAddr (fourBytes (.half 1) []) 0) := by decide

/-- JALR's opcode with funct3 `001`. -/
theorem witness_JumpAndLinkResults : wordI 0 10 0b001 1 0b1100111 = .full 0x000510E7#32
    ∧ fetched (start 0x100 (.full 0x000510E7) []) = some (.full 0x000510E7#32) := by decide

/-- The restricted operands of the compressed words at their ends. -/
theorem witness_compressed_operands : (255 : BitVec 8) ≠ 0 ∧ (15 : Reg) ≠ 0 ∧ (15 : Reg) ≠ 2 ∧ (1 : Reg) ≠ 2
    ∧ (63 : BitVec 6) ≠ 0 ∧ (31 : BitVec 5) ≠ 0 ∧ decode (.half 0x77FD) = .ok (.cLui 15 63)
    ∧ decode (.half 0x0FFE) = .error .registerField ∧ decode (.half 0x1FFC) = .ok (.cAddi4spn 7 255) := by decide

/-- A machine whose CIM unit has a given function, rows and strobes, and element `7` in every column. -/
def cimDemo (fs : FsReg) (rs wds : BitVec 4) : State :=
  (start 0x100 (.half 1) []).setCim { CimState.reset with fs := fs, rs := rs, wds := wds, wd := Vector.replicate 4 7 }

/-- R125: row 3 and column 3 are written, row 1 and column 2 are not; and with no row selected. -/
theorem witness_WriteActionProgramsSelectedCells :
    (∀ i j : Fin 4, (0b1000#4).getLsbD i = true → (0b1000#4).getLsbD j = true → i = j)
    ∧ (∀ i j : Fin 4, (0b0000#4).getLsbD i = true → (0b0000#4).getLsbD j = true → i = j)
    ∧ (cimDemo ⟨.write, .forward, 2⟩ 0b1000 0b1010).cim.fs.op = .write
    ∧ (nextOr State.reset (doA 15 (cimDemo ⟨.write, .forward, 2⟩ 0b1000 0b1010))).cim.cells[15][3][3] = ⟨2, 7⟩
    ∧ (nextOr State.reset (doA 15 (cimDemo ⟨.write, .forward, 2⟩ 0b1000 0b1010))).cim.cells[15][1][3] = ⟨0, 0⟩
    ∧ (nextOr State.reset (doA 15 (cimDemo ⟨.write, .forward, 2⟩ 0b1000 0b1010))).cim.cells[15][3][2] = ⟨0, 0⟩
    ∧ (nextOr State.reset (doA 15 (cimDemo ⟨.write, .forward, 2⟩ 0b1000 0b1010))).cim.cells[14][3][3] = ⟨0, 0⟩
    ∧ isNext (doA 15 (cimDemo ⟨.write, .forward, 2⟩ 0b0000 0b1010)) = true := by decide

theorem witness_ReadActionsSampleAndConvert :
    (cimDemo ⟨.read, .forward, 0⟩ 0b1111 0).cim.fs.op = .read
    ∧ (cimDemo ⟨.read, .forward, 0⟩ 0b1111 0).cim.fs.mode = .forward := by decide

theorem witness_UndescribedModesAreRefused :
    ((cimDemo ⟨.read, .backward, 0⟩ 0 0).cim.fs.op = .read ∧ (cimDemo ⟨.read, .backward, 0⟩ 0 0).cim.fs.mode ≠ .forward)
    ∧ (cimDemo ⟨.read, .recurrent, 0⟩ 0 0).cim.fs.op = .read
    ∧ (cimDemo ⟨.read, .recurrent, 0⟩ 0 0).cim.fs.mode ≠ .forward := by decide

/-- The largest inputs of the smallest and of the largest precision; registers `x0` and another. -/
theorem witness_MvmWithExactConverterIsTheProduct :
    (∀ i : Fin 4, (Vector.replicate 4 (1 : Byte))[i].toNat < 2 ^ precisionBits 0)
    ∧ (∀ i : Fin 4, (Vector.replicate 4 (255 : Byte))[i].toNat < 2 ^ precisionBits 3) ∧ (10 : Reg) ≠ 0 := by decide

/-- A program that stores over its next instruction: `C.SW x10, 0(x8)` at `0x100`, the fetch at `0x102` refused; the same byte
value stored back is fetched. -/
def storesAhead (v : Word) : State :=
  start 0x100 (.half 0xC008) [(8, 0x100), (10, v)] [(0x102, 0x2E), (0x103, 0x95)]

theorem witness_FetchReadsTheLaunchImage_run :
    (∃ t w, Host.Core.run Sys2Proof.core 1 (State.launch smallLaunch) = .next t ∧ t.fetch = .next w)
    ∧ fetched (nextOr State.reset (step (storesAhead 0x952EC008))) = some (.half 0x952E) :=
  ⟨⟨nextOr State.reset (Host.Core.run Sys2Proof.core 1 (State.launch smallLaunch)), .half 0x9002,
    eq_next State.reset (by decide), fetch_of_fetched (by decide)⟩, by decide⟩

/-- A changed byte in the first parcel; one in the second parcel of a 32-bit instruction. -/
theorem witness_FetchReadsTheLaunchImage_refused :
    (AllValid (nextOr State.reset (step (storesAhead 0x942EC008))) 2 0x102
      ∧ ¬ Launched (nextOr State.reset (step (storesAhead 0x942EC008))) 2 0x102
      ∧ refusalOfStep (nextOr State.reset (step (storesAhead 0x942EC008))) = some (.selfModifiedCode 0x102))
    ∧ AllValid (start 0x100 (.full 0x00C58533) []) 4 0x100
    ∧ Launched ((start 0x100 (.full 0x00C58533) []).setMem (bytesFrom 0x100 [0x33, 0x85, 0xC5, 0x40])) 2 0x100
    ∧ ¬ Launched ((start 0x100 (.full 0x00C58533) []).setMem (bytesFrom 0x100 [0x33, 0x85, 0xC5, 0x40])) 4 0x100 := by decide

theorem witness_SeveralRowsWriteIsRefused :
    ∃ i j : Fin 4, i ≠ j ∧ (cimDemo ⟨.write, .forward, 0⟩ 0b1001 0).cim.rs.getLsbD i = true
      ∧ (cimDemo ⟨.write, .forward, 0⟩ 0b1001 0).cim.rs.getLsbD j = true := by decide

end Sys2Proof.Tests
end

section
/-! PROOFS. The state family (10_state.md): what every next state does to `pc` and to the registers, the invariant of a step,
launch and reset. -/
namespace Sys2Proof.Proofs
open Sys2Proof.Machine Sys2Proof.Claims Sys2Proof.Laws

/-! ### The length of a decoded word (30_encoding.md R70) -/

/-- The decoder's answer is a rejection or an instruction whose row is `n` bytes wide. -/
def GivesLength (n : Nat) (d : Decoded) : Prop := ∀ i, d = .ok i → WordLength.bytesOf i = n

@[simp] theorem givesLength_ok {n : Nat} {i : Instr} : GivesLength n (.ok i) ↔ WordLength.bytesOf i = n :=
  ⟨fun h => h i rfl, fun h j e => by cases e; exact h⟩

@[simp] theorem givesLength_error {n : Nat} {e : Reject} : GivesLength n (.error e) := nofun

@[simp] theorem givesLength_ite {n : Nat} {c : Prop} [Decidable c] {d e : Decoded} :
    GivesLength n (if c then d else e) ↔ (c → GivesLength n d) ∧ (¬ c → GivesLength n e) := by
  by_cases hc : c <;> simp [hc]

@[simp] theorem givesLength_bind {n : Nat} {x : Except Reject Reg} {f : Reg → Decoded} :
    GivesLength n (x >>= f) ↔ ∀ r, x = .ok r → GivesLength n (f r) := by
  cases x with
  | error e => exact ⟨nofun, nofun⟩
  | ok r => exact ⟨fun h q e => by cases e; exact h, fun h => h r rfl⟩

theorem decodeQ0_givesLength (w : BitVec 16) : GivesLength 2 (decodeQ0 w) := by
  simp [decodeQ0, WordLength.bytesOf]

theorem decodeQ1Alu_givesLength (w : BitVec 16) : GivesLength 2 (decodeQ1Alu w) := by
  simp [decodeQ1Alu, WordLength.bytesOf]

theorem decodeQ1_givesLength (w : BitVec 16) : GivesLength 2 (decodeQ1 w) := by
  simp [decodeQ1, WordLength.bytesOf, decodeQ1Alu_givesLength]

theorem decodeQ2Reg_givesLength (w : BitVec 16) : GivesLength 2 (decodeQ2Reg w) := by
  simp [decodeQ2Reg, WordLength.bytesOf]

theorem decodeQ2_givesLength (w : BitVec 16) : GivesLength 2 (decodeQ2 w) := by
  simp [decodeQ2, WordLength.bytesOf, decodeQ2Reg_givesLength]

theorem decode16_givesLength (w : BitVec 16) : GivesLength 2 (decode16 w) := by
  simp [decode16, decodeQ0_givesLength, decodeQ1_givesLength, decodeQ2_givesLength]

theorem decodeOp_givesLength (w : BitVec 32) : GivesLength 4 (decodeOp w) := by
  simp [decodeOp, WordLength.bytesOf]

theorem decodeOpImm_givesLength (w : BitVec 32) : GivesLength 4 (decodeOpImm w) := by
  simp [decodeOpImm, WordLength.bytesOf]

theorem decodeLoad_givesLength (w : BitVec 32) : GivesLength 4 (decodeLoad w) := by
  simp [decodeLoad, WordLength.bytesOf]

theorem decodeStore_givesLength (w : BitVec 32) : GivesLength 4 (decodeStore w) := by
  simp [decodeStore, WordLength.bytesOf]

theorem decodeBranch_givesLength (w : BitVec 32) : GivesLength 4 (decodeBranch w) := by
  simp [decodeBranch, WordLength.bytesOf]

theorem decodeJalr_givesLength (w : BitVec 32) : GivesLength 4 (decodeJalr w) := by
  simp [decodeJalr, WordLength.bytesOf]

theorem decode32_givesLength (w : BitVec 32) : GivesLength 4 (decode32 w) := by
  simp [decode32, WordLength.bytesOf, decodeOp_givesLength, decodeOpImm_givesLength, decodeLoad_givesLength,
    decodeStore_givesLength, decodeBranch_givesLength, decodeJalr_givesLength]

/-- A word decodes only to instructions of its own length. -/
theorem bytesOf_of_decode {w : InstWord} {i : Instr} (h : decode w = .ok i) : WordLength.bytesOf i = w.length := by
  cases w with
  | half w => exact decode16_givesLength w i h
  | full w => exact decode32_givesLength w i h

/-! ### What a completed instruction does to `pc` and to the registers -/

/-- In `t` the program counter is `p` and no register but `d` differs from `s`. -/
structure Effect (d : Option Reg) (p : Word) (s t : State) : Prop where
  pc : t.pc = p
  regs : ∀ q, d ≠ some q → t.readReg q = s.readReg q

theorem effect_setPc (d : Option Reg) (p : Word) (s : State) : Effect d p s (s.setPc p) := ⟨rfl, fun _ _ => rfl⟩

theorem effect_writeReg_setPc (rd : Reg) (v p : Word) (s : State) :
    Effect (some rd) p s ((s.writeReg rd v).setPc p) where
  pc := rfl
  regs q hq := by
    have hne : q ≠ rd := fun e => hq (congrArg some e.symm)
    rw [State.readReg_setPc, State.readReg_writeReg_of_ne s v hne]

theorem effect_finish {rd : Reg} {v len : Word} {s t : State} (h : finish rd v len s = .next t) :
    Effect (some rd) (s.pc + len) s t := by
  cases h
  rw [State.advance, State.writeReg_pc]
  exact effect_writeReg_setPc rd v _ s

theorem effect_skip {d : Option Reg} {len : Word} {s t : State} (h : skip len s = .next t) :
    Effect d (s.pc + len) s t := by cases h; exact effect_setPc d _ s

theorem effect_jump {d : Option Reg} {p : Word} {s t : State} (h : jump p s = .next t) : Effect d p s t := by
  cases h; exact effect_setPc d p s

theorem effect_jumpLink {rd : Reg} {link p : Word} {s t : State} (h : jumpLink rd link p s = .next t) :
    Effect (some rd) p s t := by cases h; exact effect_writeReg_setPc rd link p s

theorem effect_branch {d : Option Reg} {c : Bool} {off len : Word} {s t : State} (h : branch c off len s = .next t) :
    Effect d (if c then s.pc + off else s.pc + len) s t := by
  rw [branch_eq] at h; cases h; exact effect_setPc d _ s

theorem effect_load {n : Width} {ext : n.Value → Word} {rd : Reg} {addr len : Word} {s t : State}
    (h : load n ext rd addr len s = .next t) : Effect (some rd) (s.pc + len) s t := by
  rcases load_cases h with ⟨-, -, e⟩ | ⟨_, -, e⟩
  · exact effect_finish e.symm
  · cases e

theorem effect_store {d : Option Reg} {n : Width} {addr len : Word} {v : n.Value} {s t : State}
    (h : store n addr v len s = .next t) : Effect d (s.pc + len) s t := by
  rcases store_cases h with ⟨-, -, -, e⟩ | ⟨_, -, e⟩ | ⟨-, e⟩
  · cases e; exact ⟨rfl, fun _ _ => rfl⟩
  · cases e
  · cases e

/-- The `pc` an instruction leaves when it completes: the target of a jump or of a branch taken, and otherwise the address
after the instruction (R16). -/
def nextPc (s : State) : Instr → Word
  | .cJal imm | .cJ imm => s.pc + offCj imm
  | .cJr rs1 | .cJalr rs1 => evenTarget (s.readReg rs1)
  | .jal _ imm => s.pc + offJ imm
  | .jalr _ rs1 imm => evenTarget (s.readReg rs1 + immI imm)
  | .cBeqz rs1 imm => if s.readReg (creg rs1) == 0 then s.pc + offCb imm else s.pc + 2
  | .cBnez rs1 imm => if s.readReg (creg rs1) != 0 then s.pc + offCb imm else s.pc + 2
  | .beq rs1 rs2 imm => if s.readReg rs1 == s.readReg rs2 then s.pc + offB imm else s.pc + 4
  | .bne rs1 rs2 imm => if s.readReg rs1 != s.readReg rs2 then s.pc + offB imm else s.pc + 4
  | .blt rs1 rs2 imm => if ltS (s.readReg rs1) (s.readReg rs2) then s.pc + offB imm else s.pc + 4
  | .bge rs1 rs2 imm => if !ltS (s.readReg rs1) (s.readReg rs2) then s.pc + offB imm else s.pc + 4
  | .bltu rs1 rs2 imm => if ltU (s.readReg rs1) (s.readReg rs2) then s.pc + offB imm else s.pc + 4
  | .bgeu rs1 rs2 imm => if !ltU (s.readReg rs1) (s.readReg rs2) then s.pc + offB imm else s.pc + 4
  | i => s.pc + BitVec.ofNat 32 (WordLength.bytesOf i)

/-- Every next state of `exec` has `nextPc` as its `pc` and differs in no register but the destination. -/
theorem exec_effect {i : Instr} {s t : State} (h : exec i s = .next t) :
    Effect (destination i) (nextPc s i) s t := by
  cases i
  case cLw | cLwsp | lw | lh | lhu | lb | lbu => exact effect_load h
  case cSw | cSwsp | sw | sh | sb => exact effect_store h
  case cNop | hintCLi | hintCLui | hintCSlli | hintCMv | hintCAdd | fence => exact effect_skip h
  case cJ | cJr => exact effect_jump h
  case cJal | cJalr | jal | jalr => exact effect_jumpLink h
  case cBeqz | cBnez | beq | bne | blt | bge | bltu | bgeu => exact effect_branch h
  case cIllegal | resCAddi4spn | niCFld | niCFlw | resQ0F4 | niCFsd | unQ0F7 | resCAddi16sp | resCLui | resCSrli | nseCSrli
    | resCSrai | nseCSrai | resQ1 | nseCSlli | resCSlli | niCFldsp | resCLwsp | niCFlwsp | resCJr | cEbreak | niCFsdsp
    | niCFswsp | ebreak | ecall => exact absurd h raise_ne_next
  all_goals exact effect_finish h

theorem nextPc_of_not_writesPc {i : Instr} (s : State) (h : writesPc i = false) :
    nextPc s i = s.pc + BitVec.ofNat 32 (WordLength.bytesOf i) := by
  cases i
  case cJal | cJ | cJr | cJalr | jal | jalr | cBeqz | cBnez | beq | bne | blt | bge | bltu | bgeu => cases h
  all_goals rfl

/-- Settles O15: a completed instruction leaves `nextPc`, which for one that is no jump or branch is `pc` plus the length of
its row, and a word decodes only to instructions of its own length. -/
theorem advanceByInstructionLength : Obligations.AdvanceByInstructionLength := by
  intro w i s t hd hw h
  have hpc : t.pc = s.pc + BitVec.ofNat 32 w.length := by
    rw [(exec_effect h).pc, nextPc_of_not_writesPc s hw, bytesOf_of_decode hd]
  cases w with
  | half w => exact hpc
  | full w => exact hpc

/-- Settles O16: the register half of `exec_effect`. -/
theorem onlyTheDestinationChanges : Obligations.OnlyTheDestinationChanges :=
  fun _ _ _ h => (exec_effect h).regs

/-! ### `pc` stays even (R17) -/

theorem even_add {a b : Word} (ha : a.getLsbD 0 = false) (hb : b.getLsbD 0 = false) : (a + b).getLsbD 0 = false := by
  rw [BitVec.getLsbD_add (by decide), ha, hb, BitVec.carry_zero]
  rfl

/-- An offset that ends in a 0 bit stays even under sign extension (R80, R81, R87). -/
theorem even_signExtend_append_zero {n : Nat} (imm : BitVec n) : ((imm ++ 0#1).signExtend 32).getLsbD 0 = false := by
  rw [BitVec.getLsbD_signExtend, if_pos (Nat.succ_pos n), BitVec.getLsbD_append]
  rfl

theorem even_evenTarget (v : Word) : (evenTarget v).getLsbD 0 = false := by
  simp [evenTarget]

theorem bytesOf_eq_two_or_four (i : Instr) : WordLength.bytesOf i = 2 ∨ WordLength.bytesOf i = 4 := by
  cases i <;> simp [WordLength.bytesOf]

theorem even_bytesOf (i : Instr) : (BitVec.ofNat 32 (WordLength.bytesOf i)).getLsbD 0 = false := by
  rcases bytesOf_eq_two_or_four i with h | h <;> rw [h] <;> rfl

theorem even_branch {c : Prop} [Decidable c] {pc off len : Word} (hpc : pc.getLsbD 0 = false)
    (hoff : off.getLsbD 0 = false) (hlen : len.getLsbD 0 = false) :
    (if c then pc + off else pc + len).getLsbD 0 = false := by
  split
  · exact even_add hpc hoff
  · exact even_add hpc hlen

theorem even_nextPc {s : State} (i : Instr) (hpc : s.pc.getLsbD 0 = false) : (nextPc s i).getLsbD 0 = false := by
  cases i
  case cJal imm | cJ imm | jal _ imm => exact even_add hpc (even_signExtend_append_zero imm)
  case cJr | cJalr | jalr => exact even_evenTarget _
  case cBeqz imm | cBnez imm | beq imm | bne imm | blt imm | bge imm | bltu imm | bgeu imm =>
    exact even_branch hpc (even_signExtend_append_zero imm) rfl
  all_goals exact even_add hpc (even_bytesOf _)

/-! ### The invariant -/

/-- A register write leaves memory and `MEM_VALID` as they are. -/
theorem memory_of_writesOnly {s t : State} (h : WritesOnly s t) (hwf : Memory.wf s.mem = true)
    (hin : s.memInValid = true) : Memory.wf t.mem = true ∧ t.memInValid = true := by
  obtain ⟨rd, v, p, rfl⟩ := h
  simpa [State.memInValid] using And.intro hwf hin

/-- A store that passed its checks keeps the canonical form and writes inside `MEM_VALID` only (R45, R47). -/
theorem memory_of_stores {s t : State} (h : Stores s t) (hwf : Memory.wf s.mem = true)
    (hin : s.memInValid = true) : Memory.wf t.mem = true ∧ t.memInValid = true := by
  obtain ⟨n, addr, v, p, -, hvalid, -, rfl⟩ := h
  exact ⟨Memory.putBytes_wf hwf,
    Memory.all_putBytes hin fun k hk => State.valid_of_accessValid hvalid (by simpa using hk)⟩

/-- Settles O18: a next state comes from `exec` of a decoded instruction, which leaves an even `pc` and reaches memory by a
checked store only. -/
theorem stepKeepsInvariant : Obligations.StepKeepsInvariant := by
  intro s t ⟨hpc, hwf, hin⟩ h
  obtain ⟨w, i, -, -, hexec⟩ := step_next h
  have hpc' : t.pc.getLsbD 0 = false := by
    rw [(exec_effect hexec).pc]
    exact even_nextPc i hpc
  rcases exec_next hexec with hwrites | hstores
  · exact ⟨hpc', memory_of_writesOnly hwrites hwf hin⟩
  · exact ⟨hpc', memory_of_stores hstores hwf hin⟩

/-! ### Launch, reset and the registers -/

/-- Settles O19: the bare launch has `pc` 0 and lists no byte. -/
theorem resetMeetsInvariant : Obligations.ResetMeetsInvariant := by
  refine ⟨?_, ?_, ?_⟩
  · show Config.resetPc.getLsbD 0 = false
    decide
  · show Memory.wf [] = true
    rfl
  · show List.all [] _ = true
    rfl

/-- A launch gives `x1` to `x15` in order (R19). -/
theorem readReg_launch (l : Launch) {k : Nat} (h : k < 15) :
    (State.launch l).readReg (BitVec.ofNat 4 (k + 1)) = l.regs[k] := by
  have htoNat : (BitVec.ofNat 4 (k + 1)).toNat = k + 1 := by
    rw [BitVec.toNat_ofNat]
    exact Nat.mod_eq_of_lt (by omega)
  have hne : BitVec.ofNat 4 (k + 1) ≠ 0 := fun e => by
    have := congrArg BitVec.toNat e
    simp [htoNat] at this
  simp only [State.readReg, if_neg hne, htoNat, Nat.add_sub_cancel]
  rfl

/-- A byte of the launch image is read back at its address (R352). -/
theorem readByte_launch_of_image {l : Launch} {a : Word} {b : Byte} (h : Memory.byte? l.image a.toNat = some b) :
    (State.launch l).readByte a = b := by
  show (Memory.byte? l.image a.toNat).getD _ = b
  rw [h, Option.getD_some]

/-- Settles O23: the registers and the bytes of the image by their reads; every other field is the launch's own. -/
theorem launchState : Obligations.LaunchState := fun l =>
  ⟨State.readReg_zero _, rfl, fun _ => readReg_launch l, fun _ _ => readByte_launch_of_image, fun _ => rfl, fun _ => rfl,
    rfl, rfl, rfl, State.launched_launch l⟩

/-- Settles O24: the case of the read-after-write law in which the register written is not `x0`. -/
theorem registerZeroAndReadAfterWrite : Obligations.RegisterZeroAndReadAfterWrite := by
  refine fun s v => ⟨State.readReg_zero s, State.writeReg_zero s v, fun r q hr => ?_⟩
  simp only [State.readReg_writeReg_eq_ite, hr, ne_eq, not_false_eq_true, and_true]

end Sys2Proof.Proofs
end

section
/-! PROOFS. The memory family (20_memory.md): the accesses by the bytes they reach, what a store leaves unchanged, fetch from
the launch image, and what a run does to the bytes of `CODE_REGION`. -/
namespace Sys2Proof.Proofs
open Sys2Proof.Machine Sys2Proof.Claims

/-! ### The bytes of an access (R18, R46, R47, R52) -/

@[simp] theorem byteAt_zero (a : Word) : byteAt a 0 = a := BitVec.add_zero a

theorem byteAt_byteAt (a : Word) (j k : Nat) : byteAt (byteAt a j) k = byteAt a (j + k) := by
  simp only [byteAt, BitVec.add_assoc, BitVec.ofNat_add]

theorem aligned_iff {n : Width} {a : Word} : aligned n a = true ↔ a.toNat % n.bytes = 0 := beq_iff_eq

theorem accessValid_iff {s : State} {n : Width} {a : Word} : s.accessValid n a = true ↔ AllValid s n.bytes a := by
  simp [State.accessValid, accessBytes, AllValid, byteAt]

theorem accessInCode_eq_false_iff {s : State} {n : Width} {a : Word} :
    s.accessInCode n a = false ↔ OutsideCode s n.bytes a := by
  simp [State.accessInCode, accessBytes, OutsideCode, byteAt]

theorem bytes_dvd_of_le {m n : Width} : m.bytes ≤ n.bytes → m.bytes ∣ n.bytes := by
  cases m <;> cases n <;> decide

/-- An address a multiple of `m` above one aligned to `n` is aligned to `m`, for widths `m` up to `n`. -/
theorem byteAt_mod_bytes {n m : Width} {a : Word} {j : Nat} (ha : a.toNat % n.bytes = 0) (hmn : m.bytes ≤ n.bytes)
    (hj : j % m.bytes = 0) : (byteAt a j).toNat % m.bytes = 0 := by
  have hspace : m.bytes ∣ 2 ^ 32 := by cases m <;> decide
  rw [byteAt, BitVec.toNat_add, BitVec.toNat_ofNat, Nat.add_mod_mod, Nat.mod_mod_of_dvd _ hspace]
  exact Nat.mod_eq_zero_of_dvd
    (((bytes_dvd_of_le hmn).trans (Nat.dvd_of_mod_eq_zero ha)).add (Nat.dvd_of_mod_eq_zero hj))

/-! ### Values and their bytes (R42) -/

theorem toNat_append_byte {w : Nat} (hi : BitVec w) (lo : Byte) : (hi ++ lo).toNat = hi.toNat * 256 + lo.toNat := by
  rw [BitVec.toNat_append, ← Nat.shiftLeft_add_eq_or_of_lt lo.isLt, Nat.shiftLeft_eq]

theorem extractLsb'_byte {w : Nat} (v : BitVec w) (k : Nat) :
    v.extractLsb' (8 * k) 8 = BitVec.ofNat 8 (v.toNat / 256 ^ k) := by
  apply BitVec.eq_of_toNat_eq
  rw [BitVec.extractLsb'_toNat, BitVec.toNat_ofNat, Nat.shiftRight_eq_div_pow, Nat.pow_mul]

/-- The number `readValue` is: its bytes, the lowest address least significant. -/
theorem toNat_readValue (s : State) (n : Width) (a : Word) : (s.readValue n a).toNat = bytesValue s a n.bytes := by
  cases n
  case byte => simp [State.readValue, bytesValue]
  case half =>
    simp [State.readValue, bytesValue, toNat_append_byte, byteAt]
    omega
  case word =>
    simp [State.readValue, bytesValue, toNat_append_byte, byteAt]
    omega

theorem readValue_eq_bytesValue (s : State) (n : Width) (a : Word) :
    s.readValue n a = BitVec.ofNat (8 * n.bytes) (bytesValue s a n.bytes) := by
  rw [← toNat_readValue, BitVec.ofNat_toNat, BitVec.setWidth_eq]

theorem bytesValue_congr {s t : State} {a : Word} {n : Nat}
    (h : ∀ k, k < n → t.readByte (byteAt a k) = s.readByte (byteAt a k)) : bytesValue t a n = bytesValue s a n := by
  induction n with
  | zero => rfl
  | succ n ih => rw [bytesValue, bytesValue, ih fun k hk => h k (by omega), h n (by omega)]

/-- Bytes that are the base-256 digits of `x` spell `x`, cut to their number. -/
theorem bytesValue_of_digits {s : State} {a : Word} {x n : Nat}
    (h : ∀ k, k < n → s.readByte (byteAt a k) = BitVec.ofNat 8 (x / 256 ^ k)) : bytesValue s a n = x % 256 ^ n := by
  induction n with
  | zero => rw [bytesValue, Nat.pow_zero, Nat.mod_one]
  | succ n ih =>
    rw [bytesValue, ih fun k hk => h k (by omega), h n (by omega), BitVec.toNat_ofNat, Nat.mod_pow_succ (b := 256),
      Nat.mul_comm (256 ^ n)]

/-! ### `MemRead` (R44) -/

theorem memRead_of_misaligned {s : State} {n : Width} {a : Word} (h : a.toNat % n.bytes ≠ 0) :
    s.memRead n a = .error .loadAddressMisaligned := if_neg (mt aligned_iff.1 h)

theorem memRead_of_invalid {s : State} {n : Width} {a : Word} (ha : a.toNat % n.bytes = 0)
    (hv : ¬ AllValid s n.bytes a) : s.memRead n a = .error .loadAccessFault :=
  (if_pos (aligned_iff.2 ha)).trans (if_neg (mt accessValid_iff.1 hv))

theorem memRead_of_valid {s : State} {n : Width} {a : Word} (ha : a.toNat % n.bytes = 0) (hv : AllValid s n.bytes a) :
    s.memRead n a = .ok (BitVec.ofNat (8 * n.bytes) (bytesValue s a n.bytes)) := by
  rw [← readValue_eq_bytesValue]
  exact (if_pos (aligned_iff.2 ha)).trans (if_pos (accessValid_iff.2 hv))

/-- Settles O25: one equation of `MemRead` for each outcome. -/
theorem memReadByItsPseudocode : Obligations.MemReadByItsPseudocode := by
  intro s n a
  split
  · exact memRead_of_misaligned ‹_›
  · next ha =>
    split
    · exact memRead_of_valid (not_not.1 ha) ‹_›
    · exact memRead_of_invalid (not_not.1 ha) ‹_›

/-- `MEM_VALID` depends on the parameters alone. -/
theorem valid_congr {s t : State} (h : t.params = s.params) (a : Word) : t.valid a = s.valid a := by
  rw [State.valid, h, State.valid]

/-- `CODE_REGION` depends on the parameters alone. -/
theorem inCode_congr {s t : State} (h : t.params = s.params) (a : Word) : t.inCode a = s.inCode a := by
  rw [State.inCode, h, State.inCode]

/-- A read depends on the parameters and the bytes of its access alone. -/
theorem memRead_congr {s t : State} {n : Width} {a : Word} (hp : t.params = s.params)
    (hb : ∀ k, k < n.bytes → t.readByte (byteAt a k) = s.readByte (byteAt a k)) : t.memRead n a = s.memRead n a := by
  have hvalid : t.accessValid n a = s.accessValid n a := by
    rw [State.accessValid, State.accessValid, funext (valid_congr hp)]
  rw [State.memRead, State.memRead, hvalid, readValue_eq_bytesValue, readValue_eq_bytesValue, bytesValue_congr hb]

/-! ### `MemWrite` (R45) -/

/-- The state a successful `MemWrite` leaves. -/
def stored (s : State) (n : Width) (a : Word) (v : n.Value) : State :=
  s.setMem (Memory.putBytes s.mem a (valueBytes n v))

theorem memWrite_of_misaligned {s : State} {n : Width} {a : Word} {v : n.Value} (h : a.toNat % n.bytes ≠ 0) :
    s.memWrite n a v = .fault (.trapped .storeAddressMisaligned s.pc (some a)) := if_neg (mt aligned_iff.1 h)

theorem memWrite_of_invalid {s : State} {n : Width} {a : Word} {v : n.Value} (ha : a.toNat % n.bytes = 0)
    (hv : ¬ AllValid s n.bytes a) : s.memWrite n a v = .fault (.trapped .storeAccessFault s.pc (some a)) :=
  (if_pos (aligned_iff.2 ha)).trans (if_neg (mt accessValid_iff.1 hv))

theorem memWrite_of_inCode {s : State} {n : Width} {a : Word} {v : n.Value} (ha : a.toNat % n.bytes = 0)
    (hv : AllValid s n.bytes a) (hc : ¬ OutsideCode s n.bytes a) : s.memWrite n a v = .refused (.codeRegionStore a) := by
  have hcode : s.accessInCode n a = true := Bool.eq_true_of_not_eq_false (mt accessInCode_eq_false_iff.1 hc)
  rw [State.memWrite, if_pos (aligned_iff.2 ha), if_pos (accessValid_iff.2 hv), if_pos hcode]

theorem memWrite_of_outsideCode {s : State} {n : Width} {a : Word} {v : n.Value} (ha : a.toNat % n.bytes = 0)
    (hv : AllValid s n.bytes a) (hc : OutsideCode s n.bytes a) : s.memWrite n a v = .next (stored s n a v) := by
  rw [State.memWrite, if_pos (aligned_iff.2 ha), if_pos (accessValid_iff.2 hv), accessInCode_eq_false_iff.2 hc]
  rfl

theorem memWrite_eq_next {s t : State} {n : Width} {a : Word} {v : n.Value} (h : s.memWrite n a v = .next t) :
    a.toNat % n.bytes = 0 ∧ AllValid s n.bytes a ∧ t = stored s n a v := by
  obtain ⟨ha, hv, -, ht⟩ := State.memWrite_next h
  exact ⟨aligned_iff.1 ha, accessValid_iff.1 hv, ht⟩

theorem readByte_stored (s : State) {n : Width} (a : Word) (v : n.Value) {k : Nat} (hk : k < n.bytes) :
    (stored s n a v).readByte (byteAt a k) = BitVec.ofNat 8 (v.toNat / 256 ^ k) :=
  (State.readByte_store_of_lt s n a v hk).trans (extractLsb'_byte v k)

theorem readByte_stored_of_ne (s : State) {n : Width} {a x : Word} (v : n.Value)
    (h : ∀ k, k < n.bytes → x ≠ byteAt a k) : (stored s n a v).readByte x = s.readByte x :=
  State.readByte_store_of_ne s n a v h

/-- Settles O26: one equation of `MemWrite` for each outcome, and the bytes of the state it leaves. -/
theorem memWriteByItsPseudocode : Obligations.MemWriteByItsPseudocode := by
  intro s n a v
  split
  · exact memWrite_of_misaligned ‹_›
  · next ha =>
    split
    · split
      · exact ⟨stored s n a v, memWrite_of_outsideCode (not_not.1 ha) ‹_› ‹_›, fun _ => readByte_stored s a v,
          fun _ => readByte_stored_of_ne s v, rfl, rfl, rfl, rfl⟩
      · exact memWrite_of_inCode (not_not.1 ha) ‹_› ‹_›
    · exact memWrite_of_invalid (not_not.1 ha) ‹_›

/-! ### A read after a write (R42, R55.2) -/

/-- An aligned read inside the bytes just written gives the part of the value that stands there. -/
theorem memRead_inside_memWrite {s t : State} {n : Width} {a : Word} {v : n.Value} (h : s.memWrite n a v = .next t)
    (m : Width) (j : Nat) (hj : j % m.bytes = 0) (hin : j + m.bytes ≤ n.bytes) :
    t.memRead m (byteAt a j) = .ok (BitVec.ofNat (8 * m.bytes) (v.toNat / 256 ^ j)) := by
  obtain ⟨ha, hv, rfl⟩ := memWrite_eq_next h
  have haligned : (byteAt a j).toNat % m.bytes = 0 := byteAt_mod_bytes ha (by omega) hj
  have hvalid : AllValid (stored s n a v) m.bytes (byteAt a j) := fun k hk => by
    rw [byteAt_byteAt]
    exact hv (j + k) (by omega)
  have hdigits : ∀ k, k < m.bytes →
      (stored s n a v).readByte (byteAt (byteAt a j) k) = BitVec.ofNat 8 (v.toNat / 256 ^ j / 256 ^ k) := fun k hk => by
    rw [byteAt_byteAt, readByte_stored s a v (by omega), Nat.pow_add, Nat.div_div_eq_div_mul]
  have hsize : 256 ^ m.bytes = 2 ^ (8 * m.bytes) := (Nat.pow_mul 2 8 m.bytes).symm
  rw [memRead_of_valid haligned hvalid, bytesValue_of_digits hdigits, hsize]
  congr 1
  exact BitVec.eq_of_toNat_eq (by simp)

theorem memRead_start_memWrite {s t : State} {n : Width} {a : Word} {v : n.Value} (h : s.memWrite n a v = .next t)
    (m : Width) (hm : m.bytes ≤ n.bytes) : t.memRead m a = .ok (BitVec.ofNat (8 * m.bytes) v.toNat) := by
  have := memRead_inside_memWrite h m 0 (Nat.zero_mod _) (by omega)
  rwa [byteAt_zero, Nat.pow_zero, Nat.div_one] at this

theorem memRead_same_memWrite {s t : State} {n : Width} {a : Word} {v : n.Value} (h : s.memWrite n a v = .next t) :
    t.memRead n a = .ok v := by
  rw [memRead_start_memWrite h n (Nat.le_refl _), BitVec.ofNat_toNat, BitVec.setWidth_eq]

/-- Settles O27: each access is one inside the word written. -/
theorem mixedWidthAccessSeesLittleEndianBytes : Obligations.MixedWidthAccessSeesLittleEndianBytes := by
  intro s t a v h
  have start := memRead_start_memWrite h
  have inside := memRead_inside_memWrite h
  exact ⟨start .byte (by decide), inside .byte 1 rfl (by decide), inside .byte 2 rfl (by decide),
    inside .byte 3 rfl (by decide), start .half (by decide), inside .half 2 rfl (by decide), memRead_same_memWrite h⟩

/-- Settles O28: the same access reads the value back; another one depends on its own bytes, which the write leaves. -/
theorem loadSeesTheMostRecentStore : Obligations.LoadSeesTheMostRecentStore := by
  refine fun s t n a v h => ⟨memRead_same_memWrite h, fun m b hdisjoint => ?_⟩
  obtain ⟨-, -, rfl⟩ := memWrite_eq_next h
  exact memRead_congr rfl fun k hk => readByte_stored_of_ne s v fun j hj => (hdisjoint j k hj hk).symm

/-! ### The effect of an instruction on memory (R41) -/

/-- The width of `storeAccess` is one of the three, and `exec` is `store` there. -/
theorem exec_eq_store {s : State} {i : Instr} {k : Nat} {a : Word} (h : storeAccess s i = some (k, a)) :
    ∃ (n : Width) (v : n.Value) (len : Word), n.bytes = k ∧ exec i s = store n a v len s := by
  cases i
  case cSw | cSwsp | sw => cases h; exact ⟨.word, _, _, rfl, rfl⟩
  case sh => cases h; exact ⟨.half, _, _, rfl, rfl⟩
  case sb => cases h; exact ⟨.byte, _, _, rfl, rfl⟩
  all_goals cases h

/-- An instruction without a store, when it completes, writes a register at most. -/
theorem writesOnly_of_storeAccess_eq_none {s t : State} {i : Instr} (hi : storeAccess s i = none)
    (h : exec i s = .next t) : WritesOnly s t := by
  cases i
  case cSw | cSwsp | sw | sh | sb => cases hi
  case cLw | cLwsp | lw | lh | lhu | lb | lbu => exact writesOnly_load h
  case cNop | hintCLi | hintCLui | hintCSlli | hintCMv | hintCAdd | fence => exact writesOnly_skip h
  case cJ | cJr => exact writesOnly_jump h
  case cJal | cJalr | jal | jalr => exact writesOnly_jumpLink h
  case cBeqz | cBnez | beq | bne | blt | bge | bltu | bgeu => exact writesOnly_branch h
  case cIllegal | resCAddi4spn | niCFld | niCFlw | resQ0F4 | niCFsd | unQ0F7 | resCAddi16sp | resCLui | resCSrli | nseCSrli
    | resCSrai | nseCSrai | resQ1 | nseCSlli | resCSlli | niCFldsp | resCLwsp | niCFlwsp | resCJr | cEbreak | niCFsdsp
    | niCFswsp | ebreak | ecall => exact absurd h raise_ne_next
  all_goals exact writesOnly_finish h

theorem mem_of_writesOnly {s t : State} (h : WritesOnly s t) : t.mem = s.mem := by
  obtain ⟨rd, v, p, rfl⟩ := h
  rw [State.setPc_mem, State.writeReg_mem]

/-- A completed store leaves `stored`, advanced by the length. -/
theorem store_eq_next {s t : State} {n : Width} {a len : Word} {v : n.Value} (h : store n a v len s = .next t) :
    t = (stored s n a v).advance len := by
  rcases store_cases h with ⟨-, -, -, e⟩ | ⟨_, -, e⟩ | ⟨-, e⟩ <;> cases e
  rfl

/-- Settles O17: without a store memory stays, and a store leaves `stored`. -/
theorem onlyStoredBytesChange : Obligations.OnlyStoredBytesChange := by
  intro i s t h x hx
  cases hi : storeAccess s i with
  | none => exact State.readByte_congr (mem_of_writesOnly (writesOnly_of_storeAccess_eq_none hi h)) x
  | some access =>
    obtain ⟨k, a⟩ := access
    obtain ⟨n, v, len, rfl, hexec⟩ := exec_eq_store hi
    rw [store_eq_next (hexec.symm.trans h), State.readByte_advance]
    exact readByte_stored_of_ne s v (hx n.bytes a hi)

/-! ### Misaligned compressed accesses (R49) -/

theorem load_misaligned_iff {n : Width} {ext : n.Value → Word} {rd : Reg} {a len : Word} {s : State} :
    Traps (load n ext rd a len s) s .loadAddressMisaligned (some a) ↔ a.toNat % n.bytes ≠ 0 := by
  constructor
  · intro h ha
    by_cases hv : AllValid s n.bytes a
    · rw [Traps, load, memRead_of_valid ha hv] at h; cases h
    · rw [Traps, load, memRead_of_invalid ha hv] at h; cases h
  · intro ha
    rw [load, memRead_of_misaligned ha]
    rfl

theorem store_misaligned_iff {n : Width} {a len : Word} {v : n.Value} {s : State} :
    Traps (store n a v len s) s .storeAddressMisaligned (some a) ↔ a.toNat % n.bytes ≠ 0 := by
  constructor
  · intro h ha
    by_cases hv : AllValid s n.bytes a
    · by_cases hc : OutsideCode s n.bytes a
      · rw [Traps, store, memWrite_of_outsideCode ha hv hc] at h; cases h
      · rw [Traps, store, memWrite_of_inCode ha hv hc] at h; cases h
    · rw [Traps, store, memWrite_of_invalid ha hv] at h; cases h
  · intro ha
    rw [store, memWrite_of_misaligned ha]
    rfl

/-- A word offset (R79, R83, R84) is a multiple of 4. -/
theorem toNat_wordOffset_mod {k : Nat} (u : BitVec k) : ((u ++ 0#2).zeroExtend 32).toNat % 4 = 0 := by
  simp [BitVec.toNat_append]
  omega

theorem toNat_add_mod_four {a off : Word} (h : off.toNat % 4 = 0) : (a + off).toNat % 4 = a.toNat % 4 := by
  rw [BitVec.toNat_add]
  omega

/-- Settles O40: the offsets are multiples of 4, so the address is aligned as its base is. -/
theorem compressedAccessIsMisalignedWithItsBase : Obligations.CompressedAccessIsMisalignedWithItsBase := by
  intro s r rs1 u q u'
  have hcl : (clAddr s rs1 u).toNat % 4 = (s.readReg (creg rs1)).toNat % 4 :=
    toNat_add_mod_four (toNat_wordOffset_mod u)
  have hsp : (spAddr s u').toNat % 4 = (s.readReg 2).toNat % 4 := toNat_add_mod_four (toNat_wordOffset_mod u')
  rw [← hcl, ← hsp]
  exact ⟨load_misaligned_iff, store_misaligned_iff, load_misaligned_iff, store_misaligned_iff⟩

/-! ### Fetch (R50, R51, R52) -/

theorem forall_byteAt_two_iff {p : Word → Prop} {a : Word} : (∀ k, k < 2 → p (byteAt a k)) ↔ p a ∧ p (a + 1) where
  mp h := ⟨byteAt_zero a ▸ h 0 (by decide), h 1 (by decide)⟩
  mpr h
    | 0, _ => (byteAt_zero a).symm ▸ h.1
    | 1, _ => h.2

/-- Four bytes are those of two parcels. -/
theorem forall_byteAt_four_iff {p : Word → Prop} {a : Word} :
    (∀ k, k < 4 → p (byteAt a k)) ↔ (∀ k, k < 2 → p (byteAt a k)) ∧ ∀ k, k < 2 → p (byteAt (a + 2) k) :=
  (forall_lt_add_iff_lt_left (b := 2) (c := 2)).trans
    (and_congr_right' (forall₂_congr fun k _ => by rw [← byteAt_byteAt]; rfl))

theorem parcelValid_iff {s : State} {a : Word} : s.parcelValid a = true ↔ AllValid s 2 a :=
  (Bool.and_eq_true_iff).trans (forall_byteAt_two_iff (p := fun x => s.valid x = true)).symm

theorem parcelLaunched_iff {s : State} {a : Word} : s.parcelLaunched a = true ↔ Launched s 2 a :=
  (Bool.and_eq_true_iff).trans (forall_byteAt_two_iff (p := fun x => s.launched x = true)).symm

theorem allValid_four_iff {s : State} {a : Word} : AllValid s 4 a ↔ AllValid s 2 a ∧ AllValid s 2 (a + 2) :=
  forall_byteAt_four_iff (p := fun x => s.valid x = true)

theorem launched_four_iff {s : State} {a : Word} : Launched s 4 a ↔ Launched s 2 a ∧ Launched s 2 (a + 2) :=
  forall_byteAt_four_iff (p := fun x => s.launched x = true)

/-- The low two bits of a parcel are those of its low byte. -/
theorem parcel_mod_four (hi lo : Byte) : (hi ++ lo).toNat % 4 = lo.toNat % 4 := by
  rw [toNat_append_byte]
  omega

theorem endsIn11_iff {w : Nat} {p : BitVec w} : p.extractLsb' 0 2 = 0b11#2 ↔ p.toNat % 4 = 3 := by
  rw [← BitVec.toNat_inj, BitVec.extractLsb'_toNat]
  rfl

/-- Settles O12: the parcels are read, or fault, one after the other. -/
theorem fetchReadsParcels : Obligations.FetchReadsParcels := by
  intro s _
  have hp1 : byteAt s.pc 3 = s.pc + 2 + 1 := (BitVec.add_assoc s.pc 2 1).symm
  dsimp only
  rw [hp1]
  split
  · next hvalid =>
    intro hlaunched
    have hv := parcelValid_iff.2 hvalid
    have hl := parcelLaunched_iff.2 hlaunched
    split
    · next hlow => exact State.fetch_half hv hl (mt endsIn11_iff.1 hlow)
    · next hlow =>
      have hlow := endsIn11_iff.2 (not_not.1 hlow)
      split
      · next hvalid4 =>
        intro hlaunched4
        exact State.fetch_full hv hl (parcelValid_iff.2 (allValid_four_iff.1 hvalid4).2)
          (parcelLaunched_iff.2 (launched_four_iff.1 hlaunched4).2) hlow
      · next hvalid4 =>
        have hinvalid : ¬ AllValid s 2 (s.pc + 2) := fun h => hvalid4 (allValid_four_iff.2 ⟨hvalid, h⟩)
        exact step_of_fetch_fault
          (State.fetch_fault_second hv hl (Bool.eq_false_of_not_eq_true (mt parcelValid_iff.1 hinvalid)) hlow)
  · next hinvalid =>
    exact step_of_fetch_fault (State.fetch_fault (Bool.eq_false_of_not_eq_true (mt parcelValid_iff.1 hinvalid)))

/-- The decoder gives an instruction to a 16-bit word only if it does not end in `11` (R70). -/
theorem not_endsIn11_of_decode16 {w : BitVec 16} {i : Instr} (h : decode16 w = .ok i) : w.extractLsb' 0 2 ≠ 0b11#2 := by
  intro hlow
  simp [decode16, hlow] at h

/-- The decoder gives an instruction to a 32-bit word only if it ends in `11`: every opcode does (R70, R89). -/
theorem endsIn11_of_decode32 {w : BitVec 32} {i : Instr} (h : decode32 w = .ok i) : w.extractLsb' 0 2 = 0b11#2 := by
  by_contra hlow
  have hop : ∀ c : BitVec 7, c.extractLsb' 0 2 = 0b11#2 → w.extractLsb' 0 7 ≠ c := by
    intro c hc e
    rw [← e, BitVec.extractLsb'_extractLsb'_of_le (by decide)] at hc
    exact hlow hc
  simp [decode32, hlow, hop] at h

/-- The two bytes of a parcel, put together (R42). -/
theorem bytes_append_half (w : BitVec 16) : w.extractLsb' 8 8 ++ w.extractLsb' 0 8 = w :=
  (BitVec.extractLsb'_append_extractLsb'_eq_extractLsb' rfl).trans BitVec.extractLsb'_eq_self

/-- The two bytes of the first parcel of a 32-bit word, put together (R42, R50). -/
theorem bytes_append_low (w : BitVec 32) : w.extractLsb' 8 8 ++ w.extractLsb' 0 8 = w.extractLsb' 0 16 :=
  BitVec.extractLsb'_append_extractLsb'_eq_extractLsb' rfl

/-- The four bytes of a 32-bit word, put together by parcels (R42, R50). -/
theorem bytes_append_full (w : BitVec 32) :
    (w.extractLsb' 24 8 ++ w.extractLsb' 16 8) ++ (w.extractLsb' 8 8 ++ w.extractLsb' 0 8) = w := by
  have hhigh : w.extractLsb' 24 8 ++ w.extractLsb' 16 8 = w.extractLsb' 16 16 :=
    BitVec.extractLsb'_append_extractLsb'_eq_extractLsb' rfl
  rw [hhigh, bytes_append_low]
  exact (BitVec.extractLsb'_append_extractLsb'_eq_extractLsb' rfl).trans BitVec.extractLsb'_eq_self

/-- A 16-bit word that does not end in `11` is fetched from its bytes. -/
theorem fetch_eq_half {s : State} {w : BitVec 16} (hv : AllValid s 2 s.pc) (hl : Launched s 2 s.pc)
    (h0 : s.readByte s.pc = w.extractLsb' 0 8) (h1 : s.readByte (s.pc + 1) = w.extractLsb' 8 8)
    (hlow : w.extractLsb' 0 2 ≠ 0b11#2) : s.fetch = .next (.half w) := by
  have hp : s.readByte (s.pc + 1) ++ s.readByte s.pc = w := by rw [h0, h1, bytes_append_half]
  rw [State.fetch_half (parcelValid_iff.2 hv) (parcelLaunched_iff.2 hl) (by rwa [hp]), hp]

/-- A 32-bit word that ends in `11` is fetched from its bytes. -/
theorem fetch_eq_full {s : State} {w : BitVec 32} (hv : AllValid s 4 s.pc) (hl : Launched s 4 s.pc)
    (h0 : s.readByte s.pc = w.extractLsb' 0 8) (h1 : s.readByte (s.pc + 1) = w.extractLsb' 8 8)
    (h2 : s.readByte (s.pc + 2) = w.extractLsb' 16 8) (h3 : s.readByte (s.pc + 2 + 1) = w.extractLsb' 24 8)
    (hlow : w.extractLsb' 0 2 = 0b11#2) : s.fetch = .next (.full w) := by
  obtain ⟨hv, hv'⟩ := allValid_four_iff.1 hv
  obtain ⟨hl, hl'⟩ := launched_four_iff.1 hl
  have hlow' : (s.readByte (s.pc + 1) ++ s.readByte s.pc).extractLsb' 0 2 = 0b11#2 := by
    rwa [h0, h1, bytes_append_low, BitVec.extractLsb'_extractLsb'_of_le (by decide)]
  rw [State.fetch_full (parcelValid_iff.2 hv) (parcelLaunched_iff.2 hl) (parcelValid_iff.2 hv')
    (parcelLaunched_iff.2 hl') hlow', h0, h1, h2, h3, bytes_append_full]

/-- Settles O11: the bytes at `pc` are fetched as the word they belong to, whose low bits say its length. -/
theorem stepRunsTheDecodedInstruction : Obligations.StepRunsTheDecodedInstruction := by
  intro s w i hd hbytes
  refine step_of_decode_ok ?_ hd
  have hbyte : ∀ k, (h : k < w.bytes.length) → s.readByte (byteAt s.pc k) = w.bytes[k] := fun k h => (hbytes k h).2.2
  have h0 : ∀ h, s.readByte s.pc = w.bytes[0]'h := fun h => byteAt_zero s.pc ▸ hbyte 0 h
  cases w with
  | half w =>
    exact fetch_eq_half (fun k h => (hbytes k h).1) (fun k h => (hbytes k h).2.1) (h0 (by decide : 0 < 2))
      (hbyte 1 (by decide : 1 < 2)) (not_endsIn11_of_decode16 hd)
  | full w =>
    have h3 : s.readByte (s.pc + 2 + 1) = w.extractLsb' 24 8 :=
      (BitVec.add_assoc s.pc 2 1).symm ▸ hbyte 3 (by decide : 3 < 4)
    exact fetch_eq_full (fun k h => (hbytes k h).1) (fun k h => (hbytes k h).2.1) (h0 (by decide : 0 < 4))
      (hbyte 1 (by decide : 1 < 4)) (hbyte 2 (by decide : 2 < 4)) h3 (endsIn11_of_decode32 hd)

/-! ### What every step and every run keeps -/

/-- `t` has the parameters of `s` and lists for each byte of `CODE_REGION` what `s` lists. -/
structure KeepsCode (s t : State) : Prop where
  params : t.params = s.params
  bytes : ∀ a, s.inCode a = true → Memory.byte? t.mem a.toNat = Memory.byte? s.mem a.toNat

theorem KeepsCode.refl (s : State) : KeepsCode s s := ⟨rfl, fun _ _ => rfl⟩

theorem KeepsCode.trans {s t u : State} (hst : KeepsCode s t) (htu : KeepsCode t u) : KeepsCode s u where
  params := htu.params.trans hst.params
  bytes a ha := (htu.bytes a ((inCode_congr hst.params a).trans ha)).trans (hst.bytes a ha)

theorem keepsCode_of_writesOnly {s t : State} (h : WritesOnly s t) : KeepsCode s t where
  params := by
    obtain ⟨rd, v, p, rfl⟩ := h
    rw [State.setPc_params, State.writeReg_params]
  bytes a _ := by rw [mem_of_writesOnly h]

/-- A store that passed its checks reaches no byte of `CODE_REGION` (R52). -/
theorem keepsCode_of_stores {s t : State} (h : Stores s t) : KeepsCode s t := by
  obtain ⟨n, a, v, p, -, -, hcode, rfl⟩ := h
  refine ⟨rfl, fun x hx => Memory.byte?_putBytes_of_ne fun k hk e => ?_⟩
  rw [length_valueBytes] at hk
  have := State.not_inCode_of_accessInCode hcode hk
  rw [← e, hx] at this
  cases this

theorem keepsCode_of_step {s t : State} (h : step s = .next t) : KeepsCode s t := by
  obtain ⟨_, _, -, -, hexec⟩ := step_next h
  exact (exec_next hexec).elim keepsCode_of_writesOnly keepsCode_of_stores

theorem keepsCode_of_run {n : Nat} {s t : State} (h : Host.Core.run Sys2Proof.core n s = .next t) : KeepsCode s t :=
  run_keeps (fun _ _ hs hstep => hs.trans (keepsCode_of_step hstep)) (KeepsCode.refl s) h

/-! ### Fetch along a run (R52) -/

theorem KeepsCode.readByte {s t : State} (h : KeepsCode s t) {a : Word} (ha : s.inCode a = true) :
    t.readByte a = s.readByte a := by rw [State.readByte, State.readByte, h.bytes a ha]

theorem KeepsCode.launched {s t : State} (h : KeepsCode s t) {a : Word} (ha : s.inCode a = true) :
    t.launched a = s.launched a := State.launched_congr (h.bytes a ha) (congrArg Params.image h.params)

/-- A parcel inside `CODE_REGION` is fetched as before, faults and refusals included. -/
theorem KeepsCode.fetchParcel {s t : State} (h : KeepsCode s t) {a : Word}
    (ha : ∀ k, k < 2 → s.inCode (byteAt a k) = true) : t.fetchParcel a = (s.setPc t.pc).fetchParcel a := by
  obtain ⟨h0, h1⟩ := (forall_byteAt_two_iff (p := fun x => s.inCode x = true)).1 ha
  have hvalid : t.parcelValid a = (s.setPc t.pc).parcelValid a := by
    rw [State.parcelValid, valid_congr h.params, valid_congr h.params]; rfl
  have hlaunched : t.parcelLaunched a = (s.setPc t.pc).parcelLaunched a := by
    rw [State.parcelLaunched, h.launched h0, h.launched h1]; rfl
  have hvalue : t.readValue .half a = (s.setPc t.pc).readValue .half a := by
    rw [State.readValue, h.readByte h0, h.readByte h1]; rfl
  rw [State.fetchParcel, hvalid, hlaunched, hvalue]
  rfl

theorem KeepsCode.fetch {s t : State} (h : KeepsCode s t) (hpc : ∀ k, k < 4 → s.inCode (byteAt t.pc k) = true) :
    t.fetch = (s.setPc t.pc).fetch := by
  obtain ⟨h01, h23⟩ := (forall_byteAt_four_iff (p := fun x => s.inCode x = true)).1 hpc
  rw [State.fetch, h.fetchParcel h01, h.fetchParcel h23]
  rfl

/-- A store that passes alignment and validity and reaches `CODE_REGION` is refused. -/
theorem exec_store_refused {s : State} {i : Instr} {n : Nat} {a : Word} (hi : storeAccess s i = some (n, a))
    (ha : a.toNat % n = 0) (hv : AllValid s n a) (hc : ¬ OutsideCode s n a) :
    exec i s = .refused (.codeRegionStore a) := by
  obtain ⟨n, v, len, rfl, hexec⟩ := exec_eq_store hi
  rw [hexec, store, memWrite_of_inCode ha hv hc, andThen_refused]

/-- Settles O21: every run keeps the bytes of `CODE_REGION` and the parameters, which is all a fetch inside it reads. -/
theorem codeRegionNeverChanges : Obligations.CodeRegionNeverChanges := by
  refine ⟨fun n s t h => ?_, fun i s n a => exec_store_refused⟩
  have hkeeps := keepsCode_of_run h
  exact ⟨fun a => hkeeps.readByte, hkeeps.fetch⟩

/-- Two states as launched at a byte, from one launch image, read the same there. -/
theorem readByte_eq_of_launched {s t : State} {a : Word} (hp : t.params = s.params) (hs : s.launched a = true)
    (ht : t.launched a = true) : t.readByte a = s.readByte a := by
  have hs : Memory.byte? s.mem a.toNat = Memory.byte? s.params.image a.toNat := beq_iff_eq.1 hs
  have ht : Memory.byte? t.mem a.toNat = Memory.byte? t.params.image a.toNat := beq_iff_eq.1 ht
  rw [State.readByte, State.readByte, hs, ht, hp]

/-- A parcel that one state fetches is fetched alike in every state of the same run parameters that is all as launched. -/
theorem fetchParcel_of_launched {s t : State} {a : Word} {p : Half} (hp : t.params = s.params)
    (ht : ∀ x, t.launched x = true) (h : s.fetchParcel a = .next p) : t.fetchParcel a = .next p := by
  rcases State.fetchParcel_cases h with ⟨-, e⟩ | ⟨-, -, e⟩ | ⟨hv, hl, e⟩ <;> cases e
  obtain ⟨h0, h1⟩ := Bool.and_eq_true_iff.1 hl
  have hvalid : t.parcelValid a = true := by rwa [State.parcelValid, valid_congr hp, valid_congr hp]
  have hlaunched : t.parcelLaunched a = true := Bool.and_eq_true_iff.2 ⟨ht a, ht (a + 1)⟩
  rw [State.fetchParcel_next hvalid hlaunched, readByte_eq_of_launched hp h0 (ht a),
    readByte_eq_of_launched hp h1 (ht (a + 1))]

/-- An instruction word that one state fetches is fetched alike in every state of the same `pc` and run parameters that is
all as launched. -/
theorem fetch_of_launched {s t : State} {w : InstWord} (hpc : t.pc = s.pc) (hp : t.params = s.params)
    (ht : ∀ x, t.launched x = true) (h : s.fetch = .next w) : t.fetch = .next w := by
  obtain ⟨p0, h0, h⟩ := andThen_eq_next h
  rw [State.fetch, hpc, fetchParcel_of_launched hp ht h0, andThen_next]
  split at h
  · next hlow =>
    obtain ⟨p1, h1, h⟩ := andThen_eq_next h
    rw [if_pos hlow, fetchParcel_of_launched hp ht h1, andThen_next, h]
  · next hlow => rw [if_neg hlow, h]

/-- A changed byte in the first parcel stops the fetch. -/
theorem fetch_refused {s : State} (hv : AllValid s 2 s.pc) (hl : ¬ Launched s 2 s.pc) :
    s.fetch = .refused (.selfModifiedCode s.pc) := by
  rw [State.fetch, State.fetchParcel_refused (parcelValid_iff.2 hv)
    (Bool.eq_false_of_not_eq_true (mt parcelLaunched_iff.1 hl)), andThen_refused]

/-- A changed byte in the second parcel of a 32-bit instruction stops the fetch. -/
theorem fetch_refused_second {s : State} (hl : Launched s 2 s.pc) (hlow : (s.readByte s.pc).toNat % 4 = 3)
    (hv4 : AllValid s 4 s.pc) (hl4 : ¬ Launched s 4 s.pc) : s.fetch = .refused (.selfModifiedCode s.pc) := by
  obtain ⟨hv, hv'⟩ := allValid_four_iff.1 hv4
  have hl' : ¬ Launched s 2 (s.pc + 2) := fun h => hl4 (launched_four_iff.2 ⟨hl, h⟩)
  have hends := endsIn11_iff.2 ((parcel_mod_four (s.readByte (s.pc + 1)) _).trans hlow)
  rw [State.fetch_second (parcelValid_iff.2 hv) (parcelLaunched_iff.2 hl) hends,
    State.fetchParcel_refused (parcelValid_iff.2 hv') (Bool.eq_false_of_not_eq_true (mt parcelLaunched_iff.1 hl')),
    andThen_refused]

/-- Settles O57: a run keeps the parameters, so what is fetched as launched is what the launch image holds; a changed byte
stops the fetch of its parcel. -/
theorem fetchReadsTheLaunchImage : Obligations.FetchReadsTheLaunchImage :=
  ⟨fun l _ _ _ hrun => fetch_of_launched rfl (keepsCode_of_run hrun).params.symm (State.launched_launch l),
    fun _ hv => ⟨fun hl => step_of_fetch_refused (fetch_refused hv hl),
      fun hl hlow hv4 hl4 => step_of_fetch_refused (fetch_refused_second hl hlow hv4 hl4)⟩⟩

end Sys2Proof.Proofs
end

section
/-! PROOFS. The encoding family (30_encoding.md): every format by its fields, decode and encode as inverses, the words that
raise `IllegalInstruction`, the hints. -/
namespace Sys2Proof.Proofs
open Sys2Proof.Machine Sys2Proof.Claims

/-! ### Fields (R72, R74, R97) -/

/-- A word is a concatenation just when its two fields are the two parts. -/
theorem append_eq_iff {m n : Nat} {x : BitVec m} {y : BitVec n} {w : BitVec (no_index (m + n))} :
    @Eq (no_index (BitVec (m + n))) (x ++ y) w ↔ x = w.extractLsb' n m ∧ y = w.extractLsb' 0 n where
  mp h := h ▸ ⟨BitVec.extractLsb'_append_eq_left.symm, BitVec.extractLsb'_append_eq_right.symm⟩
  mpr h := by
    rw [h.1, h.2, BitVec.extractLsb'_append_extractLsb'_eq_extractLsb' (Nat.zero_add n).symm]
    exact BitVec.extractLsb'_eq_self

theorem bit_eq_true_iff {n k : Nat} {w : BitVec n} : w.getLsbD k = true ↔ w.extractLsb' k 1 = 1#1 := by
  have h : ∀ b : BitVec 1, b.getLsbD 0 = true ↔ b = 1#1 := by decide
  rw [← h]
  simp

theorem getElem_of_one_eq {n k : Nat} {w : BitVec n} (hk : k < n) (h : 1#1 = w.extractLsb' k 1) : w[k] = true :=
  bit_eq_true_iff.2 h.symm

theorem eq_zero_of_ne_one {x : BitVec 1} : x ≠ 1#1 → x = 0#1 := by revert x; decide

theorem three_eq_iff {x : BitVec 2} : 3#2 = x ↔ x ≠ 0#2 ∧ x ≠ 1#2 ∧ x ≠ 2#2 := by revert x; decide

theorem cases_of_two_bits : ∀ x : BitVec 2, x = 0 ∨ x = 1 ∨ x = 2 ∨ x = 3 := by decide

theorem cases_of_three_bits : ∀ x : BitVec 3, x = 0 ∨ x = 1 ∨ x = 2 ∨ x = 3 ∨ x = 4 ∨ x = 5 ∨ x = 6 ∨ x = 7 := by decide

theorem reg5_zero : reg5 0#4 = 0#5 := rfl

theorem reg5_eq_two_iff (r : Reg) : reg5 r = 2#5 ↔ r = 2#4 := by revert r; decide

theorem reg5_top (r : Reg) : (reg5 r).getLsbD 4 = false := by revert r; decide

theorem field_top {n lo : Nat} (w : BitVec n) : (w.extractLsb' lo 5).getLsbD 4 = w.getLsbD (lo + 4) := by simp

/-- The decoder reads a register from a field just when the field is that register's (R97). -/
theorem regField_eq_ok_iff {n lo : Nat} {w : BitVec n} {r : Reg} :
    regField w lo = .ok r ↔ w.extractLsb' lo 5 = reg5 r := by
  have hreg : ∀ (m : BitVec 5) (r : Reg), m = reg5 r ↔ m.getLsbD 4 = false ∧ m.extractLsb' 0 4 = r := by decide
  have hlow : (w.extractLsb' lo 5).extractLsb' 0 4 = w.extractLsb' lo 4 := extract_extract w (by decide)
  rw [hreg, field_top, hlow]
  cases h : w.getLsbD (lo + 4) with
  | false => rw [regField_ok h, Except.ok.injEq, eq_self, true_and]
  | true => simp [regField_error h]

/-! ### The formats by their fields (R72, R86): the converse of the laws of Laws/Encoding.lean -/

theorem encR_eq_iff {f7 : BitVec 7} {rs2 rs1 : Reg} {f3 : BitVec 3} {rd : Reg} {op : BitVec 7} {w : BitVec 32} :
    encR f7 rs2 rs1 f3 rd op = w ↔ f7 = w.extractLsb' 25 7 ∧ reg5 rs2 = w.extractLsb' 20 5 ∧ reg5 rs1 = w.extractLsb' 15 5
      ∧ f3 = w.extractLsb' 12 3 ∧ reg5 rd = w.extractLsb' 7 5 ∧ op = w.extractLsb' 0 7 := by
  simp (disch := decide) only [encR, append_eq_iff, extract_extract, and_assoc]

theorem encI_eq_iff {imm : BitVec 12} {rs1 : Reg} {f3 : BitVec 3} {rd : Reg} {op : BitVec 7} {w : BitVec 32} :
    encI imm rs1 f3 rd op = w ↔ imm = w.extractLsb' 20 12 ∧ reg5 rs1 = w.extractLsb' 15 5 ∧ f3 = w.extractLsb' 12 3
      ∧ reg5 rd = w.extractLsb' 7 5 ∧ op = w.extractLsb' 0 7 := by
  simp (disch := decide) only [encI, append_eq_iff, extract_extract, and_assoc]

theorem encSh_eq_iff {f7 : BitVec 7} {shamt : BitVec 5} {rs1 : Reg} {f3 : BitVec 3} {rd : Reg} {op : BitVec 7}
    {w : BitVec 32} :
    encSh f7 shamt rs1 f3 rd op = w ↔ f7 = w.extractLsb' 25 7 ∧ shamt = w.extractLsb' 20 5 ∧ reg5 rs1 = w.extractLsb' 15 5
      ∧ f3 = w.extractLsb' 12 3 ∧ reg5 rd = w.extractLsb' 7 5 ∧ op = w.extractLsb' 0 7 := by
  simp (disch := decide) only [encSh, append_eq_iff, extract_extract, and_assoc]

theorem encS_immS_eq_iff {rs2 rs1 : Reg} {f3 : BitVec 3} {op : BitVec 7} {w : BitVec 32} :
    encS (immS w) rs2 rs1 f3 op = w ↔ reg5 rs2 = w.extractLsb' 20 5 ∧ reg5 rs1 = w.extractLsb' 15 5
      ∧ f3 = w.extractLsb' 12 3 ∧ op = w.extractLsb' 0 7 := by
  simp (disch := decide) only [encS, immS, append_eq_iff, extract_append_low, extract_append_high, extract_extract,
    and_assoc, true_and]

theorem encB_immB_eq_iff {rs2 rs1 : Reg} {f3 : BitVec 3} {op : BitVec 7} {w : BitVec 32} :
    encB (immB w) rs2 rs1 f3 op = w ↔ reg5 rs2 = w.extractLsb' 20 5 ∧ reg5 rs1 = w.extractLsb' 15 5
      ∧ f3 = w.extractLsb' 12 3 ∧ op = w.extractLsb' 0 7 := by
  simp (disch := decide) only [encB, immB, append_eq_iff, extract_append_low, extract_append_high, extract_extract,
    and_assoc, true_and]

theorem encU_eq_iff {imm : BitVec 20} {rd : Reg} {op : BitVec 7} {w : BitVec 32} :
    encU imm rd op = w ↔ imm = w.extractLsb' 12 20 ∧ reg5 rd = w.extractLsb' 7 5 ∧ op = w.extractLsb' 0 7 := by
  simp (disch := decide) only [encU, append_eq_iff, extract_extract, and_assoc]

theorem fieldJ_immJ (w : BitVec 32) : fieldJ (immJ w) = w.extractLsb' 12 20 := by
  simp (disch := decide) only [fieldJ, immJ, append_eq_iff, extract_append_low, extract_append_high, extract_extract,
    and_self]

/-- The word of FENCE, whose ignored bits are two fields (R302). -/
theorem fenceWord_eq_iff {hi : BitVec 17} {f3 : BitVec 3} {lo : BitVec 5} {op : BitVec 7} {w : BitVec 32} :
    hi ++ f3 ++ lo ++ op = w ↔ hi = w.extractLsb' 15 17 ∧ f3 = w.extractLsb' 12 3 ∧ lo = w.extractLsb' 7 5
      ∧ op = w.extractLsb' 0 7 := by
  simp (disch := decide) only [append_eq_iff, extract_extract, and_assoc]

theorem encSlot_eq_iff {f3 : BitVec 3} {bits : BitVec 11} {q : BitVec 2} {w : BitVec 16} :
    encSlot f3 bits q = w ↔ f3 = w.extractLsb' 13 3 ∧ bits = w.extractLsb' 2 11 ∧ q = w.extractLsb' 0 2 := by
  simp (disch := decide) only [encSlot, append_eq_iff, extract_extract, and_assoc]

theorem encCl_immCl_eq_iff {f3 : BitVec 3} {rs1 r : CReg} {w : BitVec 16} :
    encCl f3 (immCl w) rs1 r = w ↔ f3 = w.extractLsb' 13 3 ∧ rs1 = w.extractLsb' 7 3 ∧ r = w.extractLsb' 2 3
      ∧ 0b00#2 = w.extractLsb' 0 2 := by
  simp (disch := decide) only [encCl, immCl, append_eq_iff, extract_append_low, extract_append_high, extract_extract,
    and_assoc, true_and]

theorem encCi_eq_iff {f3 : BitVec 3} {b12 : BitVec 1} {mid lo : BitVec 5} {q : BitVec 2} {w : BitVec 16} :
    encCi f3 b12 mid lo q = w ↔ f3 = w.extractLsb' 13 3 ∧ b12 = w.extractLsb' 12 1 ∧ mid = w.extractLsb' 7 5
      ∧ lo = w.extractLsb' 2 5 ∧ q = w.extractLsb' 0 2 := by
  simp (disch := decide) only [encCi, append_eq_iff, extract_extract, and_assoc]

theorem encCiw_eq_iff {bits : BitVec 8} {rd : CReg} {w : BitVec 16} :
    encCiw bits rd = w ↔ 0b000#3 = w.extractLsb' 13 3 ∧ bits = w.extractLsb' 5 8 ∧ rd = w.extractLsb' 2 3
      ∧ 0b00#2 = w.extractLsb' 0 2 := by
  simp (disch := decide) only [encCiw, append_eq_iff, extract_extract, and_assoc]

theorem encCb_eq_iff {b12 : BitVec 1} {sel : BitVec 2} {rd : CReg} {lo : BitVec 5} {w : BitVec 16} :
    encCb b12 sel rd lo = w ↔ 0b100#3 = w.extractLsb' 13 3 ∧ b12 = w.extractLsb' 12 1 ∧ sel = w.extractLsb' 10 2
      ∧ rd = w.extractLsb' 7 3 ∧ lo = w.extractLsb' 2 5 ∧ 0b01#2 = w.extractLsb' 0 2 := by
  simp (disch := decide) only [encCb, append_eq_iff, extract_extract, and_assoc]

theorem encCa_eq_iff {sel : BitVec 2} {rd rs2 : CReg} {w : BitVec 16} :
    encCa sel rd rs2 = w ↔ 0b100#3 = w.extractLsb' 13 3 ∧ 0b0#1 = w.extractLsb' 12 1 ∧ 0b11#2 = w.extractLsb' 10 2
      ∧ rd = w.extractLsb' 7 3 ∧ sel = w.extractLsb' 5 2 ∧ rs2 = w.extractLsb' 2 3 ∧ 0b01#2 = w.extractLsb' 0 2 := by
  have hgroup : 0b100011#6 = 0b100#3 ++ 0b0#1 ++ 0b11#2 := by decide
  simp (disch := decide) only [encCa, hgroup, append_eq_iff, extract_extract, and_assoc]

/-- The reserved words of Quadrant 1, group `100 1 11` (R188). -/
theorem resQ1Word_eq_iff {bits : BitVec 8} {w : BitVec 16} :
    0b100111#6 ++ bits ++ 0b01#2 = w ↔ 0b100#3 = w.extractLsb' 13 3 ∧ 0b1#1 = w.extractLsb' 12 1
      ∧ 0b11#2 = w.extractLsb' 10 2 ∧ bits = w.extractLsb' 2 8 ∧ 0b01#2 = w.extractLsb' 0 2 := by
  have hgroup : 0b100111#6 = 0b100#3 ++ 0b1#1 ++ 0b11#2 := by decide
  simp (disch := decide) only [hgroup, append_eq_iff, extract_extract, and_assoc]

/-- The non-standard words of C.SLLI (R202). -/
theorem nseCSlliWord_eq_iff {bits : BitVec 10} {w : BitVec 16} :
    0b0001#4 ++ bits ++ 0b10#2 = w ↔ 0b000#3 = w.extractLsb' 13 3 ∧ 0b1#1 = w.extractLsb' 12 1
      ∧ bits = w.extractLsb' 2 10 ∧ 0b10#2 = w.extractLsb' 0 2 := by
  have hgroup : 0b0001#4 = 0b000#3 ++ 0b1#1 := by decide
  simp (disch := decide) only [hgroup, append_eq_iff, extract_extract, and_assoc]

theorem encCbr_immCb_eq_iff {f3 : BitVec 3} {rs1 : CReg} {w : BitVec 16} :
    encCbr f3 (immCb w) rs1 = w ↔ f3 = w.extractLsb' 13 3 ∧ rs1 = w.extractLsb' 7 3 ∧ 0b01#2 = w.extractLsb' 0 2 := by
  simp (disch := decide) only [encCbr, fieldCbHi, fieldCbLo, immCb, append_eq_iff, extract_append_low,
    extract_append_high, extract_extract, and_assoc, true_and]

theorem encCss_immCswsp_eq_iff {rs2 : Reg} {w : BitVec 16} :
    encCss (immCswsp w) rs2 = w ↔ 0b110#3 = w.extractLsb' 13 3 ∧ reg5 rs2 = w.extractLsb' 2 5
      ∧ 0b10#2 = w.extractLsb' 0 2 := by
  simp (disch := decide) only [encCss, immCswsp, append_eq_iff, extract_append_low, extract_append_high, extract_extract,
    and_assoc, true_and]

/-! The four words given as numbers, in their formats. -/

theorem cIllegal_word : 0x0000#16 = encCiw 0#8 0#3 := rfl
theorem resCAddi16sp_word : 0x6101#16 = encCi 0b011#3 0#1 0b00010#5 0#5 0b01#2 := rfl
theorem resCJr_word : 0x8002#16 = encCi 0b100#3 0#1 0#5 0#5 0b10#2 := rfl
theorem cEbreak_word : 0x9002#16 = encCi 0b100#3 1#1 0#5 0#5 0b10#2 := rfl

/-! ### Immediates put back into their fields (R75 to R84) -/

theorem fieldCj_immCj (w : BitVec 16) : fieldCj (immCj w) = w.extractLsb' 2 11 := by
  simp (disch := decide) only [fieldCj, immCj, append_eq_iff, extract_append_low, extract_append_high, extract_extract,
    and_self]

theorem fieldCiw_immCiw (w : BitVec 16) : fieldCiw (immCiw w) = w.extractLsb' 5 8 := by
  simp (disch := decide) only [fieldCiw, immCiw, append_eq_iff, extract_append_low, extract_append_high, extract_extract,
    and_self]

theorem fieldCi16_immCi16 (w : BitVec 16) : fieldCi16 (immCi16 w) = w.extractLsb' 2 5 := by
  simp (disch := decide) only [fieldCi16, immCi16, append_eq_iff, extract_append_low, extract_append_high,
    extract_extract, and_self]

theorem immCi16_top (w : BitVec 16) : (immCi16 w).extractLsb' 5 1 = w.extractLsb' 12 1 := by
  simp (disch := decide) only [immCi16, extract_append_high, extract_extract]

theorem immCi_top (w : BitVec 16) : (immCi w).extractLsb' 5 1 = w.extractLsb' 12 1 := by
  simp (disch := decide) only [immCi, extract_append_high, extract_extract]

theorem immCi_low (w : BitVec 16) : (immCi w).extractLsb' 0 5 = w.extractLsb' 2 5 := by
  simp (disch := decide) only [immCi, extract_append_low, extract_extract]

theorem immClwsp_top (w : BitVec 16) : (immClwsp w).extractLsb' 3 1 = w.extractLsb' 12 1 := by
  simp (disch := decide) only [immClwsp, extract_append_low, extract_append_high, extract_extract]

theorem immClwsp_low (w : BitVec 16) :
    (immClwsp w).extractLsb' 0 3 ++ (immClwsp w).extractLsb' 4 2 = w.extractLsb' 2 5 := by
  simp (disch := decide) only [immClwsp, extract_append_low, extract_append_high, extract_extract, append_eq_iff,
    and_self]

theorem immCiw_eq_zero_iff {w : BitVec 16} : immCiw w = 0#8 ↔ w.extractLsb' 5 8 = 0#8 := by
  have hfield : ∀ k, fieldCiw k = 0#8 ↔ k = 0#8 := by decide
  rw [← fieldCiw_immCiw, hfield]

theorem immCi_eq_zero_iff {w : BitVec 16} : immCi w = 0#6 ↔ w.extractLsb' 12 1 = 0#1 ∧ w.extractLsb' 2 5 = 0#5 :=
  append_eq_iff

theorem immCi16_eq_zero_iff {w : BitVec 16} :
    immCi16 w = 0#6 ↔ w.extractLsb' 12 1 = 0#1 ∧ w.extractLsb' 2 5 = 0#5 := by
  have hfield : ∀ k : BitVec 6, k = 0#6 ↔ k.extractLsb' 5 1 = 0#1 ∧ fieldCi16 k = 0#5 := by decide
  rw [hfield, fieldCi16_immCi16, immCi16_top]

/-! ### Decoding an encoded instruction -/

theorem decode_quadrant0 {w : BitVec 16} (hq : w.extractLsb' 0 2 = 0b00#2) : decode (.half w) = decodeQ0 w := by
  simp [decode, decode16, hq]

theorem decode_quadrant1 {w : BitVec 16} (hq : w.extractLsb' 0 2 = 0b01#2) : decode (.half w) = decodeQ1 w := by
  simp [decode, decode16, hq]

theorem decode_quadrant2 {w : BitVec 16} (hq : w.extractLsb' 0 2 = 0b10#2) : decode (.half w) = decodeQ2 w := by
  simp [decode, decode16, hq]

@[simp] theorem ok_bind (r : Reg) (f : Reg → Decoded) : (Except.ok r >>= f) = f r := rfl

/-- Settles O1: by the part of the decoder that has the instruction's row, which finds in the encoded word the fields its
format put there; the restrictions on operands rule out the rows that come before. -/
theorem decodeOfEncode : Obligations.DecodeOfEncode := by
  intro i hwf
  cases i
  case cIllegal | resCAddi4spn | cAddi4spn | niCFld | cLw | niCFlw | resQ0F4 | niCFsd | cSw | unQ0F7 =>
    simp [Instr.WellFormed] at hwf
    simp [encode, decode_quadrant0, decodeQ0, cIllegal_word, hwf]
  case cNop | cAddi | cJal | hintCLi | cLi | resCAddi16sp | cAddi16sp | resCLui | hintCLui | cLui | cJ | cBeqz | cBnez =>
    simp [Instr.WellFormed] at hwf
    simp [encode, decode_quadrant1, decodeQ1, resCAddi16sp_word, reg5_eq_two_iff, immCi_eq_zero_iff, immCi16_eq_zero_iff,
      hwf]
  case resCSrli | cSrli | nseCSrli | resCSrai | cSrai | nseCSrai | cAndi | cSub | cXor | cOr | cAnd =>
    simp [Instr.WellFormed] at hwf
    simp [encode, decode_quadrant1, decodeQ1, decodeQ1Alu, hwf]
  case resQ1 bits =>
    obtain ⟨h3, h12, hsel, hbits, hq⟩ := resQ1Word_eq_iff.1 (Eq.refl (0b100111#6 ++ bits ++ 0b01#2))
    simp [encode, decode_quadrant1, decodeQ1, decodeQ1Alu, ← h3, getElem_of_one_eq _ h12, ← hsel, ← hbits, ← hq]
  case resCSlli | hintCSlli | cSlli | niCFldsp | resCLwsp | cLwsp | niCFlwsp | niCFsdsp | cSwsp | niCFswsp =>
    simp [Instr.WellFormed] at hwf
    simp [encode, decode_quadrant2, decodeQ2, hwf]
  case nseCSlli bits =>
    obtain ⟨h3, h12, hbits, hq⟩ := nseCSlliWord_eq_iff.1 (Eq.refl (0b0001#4 ++ bits ++ 0b10#2))
    simp [encode, decode_quadrant2, decodeQ2, ← h3, getElem_of_one_eq _ h12, ← hbits, ← hq]
  case resCJr | cJr | hintCMv | cMv | cEbreak | cJalr | hintCAdd | cAdd =>
    simp [Instr.WellFormed] at hwf
    simp [encode, decode_quadrant2, decodeQ2, decodeQ2Reg, resCJr_word, cEbreak_word, hwf]
  case add | sub | slt | sltu | and | or | xor | sll | srl | sra => simp [encode, decode, decode32, decodeOp]
  case addi | slti | sltiu | andi | ori | xori | slli | srli | srai => simp [encode, decode, decode32, decodeOpImm]
  case lw | lh | lhu | lb | lbu => simp [encode, decode, decode32, decodeLoad]
  case sw | sh | sb => simp [encode, decode, decode32, decodeStore]
  case beq | bne | blt | bge | bltu | bgeu => simp [encode, decode, decode32, decodeBranch]
  case jalr => simp [encode, decode, decode32, decodeJalr]
  case lui | auipc | jal | ebreak | ecall => simp [encode, decode, decode32]
  case fence hi lo =>
    obtain ⟨hhi, h3, hlo, hop⟩ := fenceWord_eq_iff.1 (Eq.refl (hi ++ 0b000#3 ++ lo ++ 0b0001111#7))
    simp [encode, decode, decode32, ← hhi, ← h3, ← hlo, ← hop]

/-! ### The cases of a decoder -/

/-- A choice by a 2-bit field. -/
theorem choice_by_two_bits {α : Type} {Q : α → Prop} {x : BitVec 2} {d0 d1 d2 d3 : α}
    (h0 : x = 0b00#2 → Q d0) (h1 : x = 0b01#2 → Q d1) (h2 : x = 0b10#2 → Q d2) (h3 : x = 0b11#2 → Q d3) :
    Q (if x = 0b00#2 then d0 else if x = 0b01#2 then d1 else if x = 0b10#2 then d2 else d3) := by
  rcases cases_of_two_bits x with rfl | rfl | rfl | rfl
  · exact h0 rfl
  · exact h1 rfl
  · exact h2 rfl
  · exact h3 rfl

/-- A choice by the 3-bit field funct3. -/
theorem choice_by_funct3 {α : Type} {Q : α → Prop} {x : BitVec 3} {d0 d1 d2 d3 d4 d5 d6 d7 : α}
    (h0 : x = 0b000#3 → Q d0) (h1 : x = 0b001#3 → Q d1) (h2 : x = 0b010#3 → Q d2) (h3 : x = 0b011#3 → Q d3)
    (h4 : x = 0b100#3 → Q d4) (h5 : x = 0b101#3 → Q d5) (h6 : x = 0b110#3 → Q d6) (h7 : x = 0b111#3 → Q d7) :
    Q (if x = 0b000#3 then d0 else if x = 0b001#3 then d1 else if x = 0b010#3 then d2 else if x = 0b011#3 then d3
      else if x = 0b100#3 then d4 else if x = 0b101#3 then d5 else if x = 0b110#3 then d6 else d7) := by
  rcases cases_of_three_bits x with rfl | rfl | rfl | rfl | rfl | rfl | rfl | rfl
  · exact h0 rfl
  · exact h1 rfl
  · exact h2 rfl
  · exact h3 rfl
  · exact h4 rfl
  · exact h5 rfl
  · exact h6 rfl
  · exact h7 rfl

/-- The instruction is well-formed and has this word. -/
def IsOf (w : InstWord) (i : Instr) : Prop := encode i = w ∧ i.WellFormed = true

/-- What the decoder answers for a word, if it answers an instruction, is well-formed and has that word. -/
def Reencodes (w : InstWord) (d : Decoded) : Prop := ∀ i, d = .ok i → IsOf w i

section
variable {w : InstWord} {d e : Decoded}

@[simp] theorem reencodes_ok {i : Instr} : Reencodes w (.ok i) ↔ IsOf w i :=
  ⟨fun h => h i rfl, fun h j e => by cases e; exact h⟩

@[simp] theorem reencodes_error {r : Reject} : Reencodes w (.error r) := nofun

@[simp] theorem reencodes_ite {c : Prop} [Decidable c] :
    Reencodes w (if c then d else e) ↔ (c → Reencodes w d) ∧ (¬ c → Reencodes w e) := by
  by_cases hc : c <;> simp [hc]

/-- A choice of which the second part needs no hypothesis. -/
theorem reencodes_ite_of {c : Prop} [Decidable c] (hd : c → Reencodes w d) (he : Reencodes w e) :
    Reencodes w (if c then d else e) := reencodes_ite.2 ⟨hd, fun _ => he⟩

@[simp] theorem reencodes_regField {n lo : Nat} {v : BitVec n} {f : Reg → Decoded} :
    Reencodes w (regField v lo >>= f) ↔ ∀ r, v.extractLsb' lo 5 = reg5 r → Reencodes w (f r) := by
  simp only [← regField_eq_ok_iff]
  cases regField v lo with
  | error r => exact ⟨nofun, nofun⟩
  | ok r => exact ⟨fun h q e => by cases e; exact h, fun h => h r rfl⟩

end

/-! ### Encoding a decoded 32-bit instruction -/

theorem decodeOp_reencodes {w : BitVec 32} (hop : w.extractLsb' 0 7 = 0b0110011#7) :
    Reencodes (.full w) (decodeOp w) := by
  simp only [decodeOp, reencodes_regField]
  intro rd hrd rs1 hrs1 rs2 hrs2
  have row {i : Instr} {f7 : BitVec 7} {f3 : BitVec 3} (hi : encode i = .full (encR f7 rs2 rs1 f3 rd 0b0110011#7))
      (hwf : i.WellFormed = true) (h7 : w.extractLsb' 25 7 = f7) (h3 : w.extractLsb' 12 3 = f3) :
      Reencodes (.full w) (.ok i) := by
    have hw := encR_eq_iff.2 ⟨h7.symm, hrs2.symm, hrs1.symm, h3.symm, hrd.symm, hop.symm⟩
    exact reencodes_ok.2 ⟨hi.trans (congrArg _ hw), hwf⟩
  refine reencodes_ite_of (fun h7 => ?_) (reencodes_ite_of (fun h7 => ?_) reencodes_error)
  · exact choice_by_funct3 (row rfl rfl h7) (row rfl rfl h7) (row rfl rfl h7) (row rfl rfl h7) (row rfl rfl h7)
      (row rfl rfl h7) (row rfl rfl h7) (row rfl rfl h7)
  · exact reencodes_ite_of (row rfl rfl h7) (reencodes_ite_of (row rfl rfl h7) reencodes_error)

theorem decodeOpImm_reencodes {w : BitVec 32} (hop : w.extractLsb' 0 7 = 0b0010011#7) :
    Reencodes (.full w) (decodeOpImm w) := by
  simp only [decodeOpImm, reencodes_regField]
  intro rd hrd rs1 hrs1
  refine choice_by_funct3 ?_ ?_ ?_ ?_ ?_ ?_ ?_ ?_
  all_goals
    intro h3
    simp +contextual [IsOf, encode, Instr.WellFormed, encI_eq_iff, encSh_eq_iff, hop, hrd, hrs1, h3]

theorem decodeLoad_reencodes {w : BitVec 32} (hop : w.extractLsb' 0 7 = 0b0000011#7) :
    Reencodes (.full w) (decodeLoad w) := by
  simp +contextual [decodeLoad, IsOf, encode, Instr.WellFormed, encI_eq_iff, hop]

theorem decodeStore_reencodes {w : BitVec 32} (hop : w.extractLsb' 0 7 = 0b0100011#7) :
    Reencodes (.full w) (decodeStore w) := by
  simp +contextual [decodeStore, IsOf, encode, Instr.WellFormed, encS_immS_eq_iff, hop]

theorem decodeBranch_reencodes {w : BitVec 32} (hop : w.extractLsb' 0 7 = 0b1100011#7) :
    Reencodes (.full w) (decodeBranch w) := by
  simp +contextual [decodeBranch, IsOf, encode, Instr.WellFormed, encB_immB_eq_iff, hop]

theorem decodeJalr_reencodes {w : BitVec 32} (hop : w.extractLsb' 0 7 = 0b1100111#7) :
    Reencodes (.full w) (decodeJalr w) := by
  simp +contextual [decodeJalr, IsOf, encode, Instr.WellFormed, encI_eq_iff, hop]

/-- An instruction of formats U and J, whose one register field is read first. -/
theorem upper_reencodes {w : BitVec 32} {imm : BitVec 20} {op : BitVec 7} {f : Reg → Instr}
    (hf : ∀ rd, encode (f rd) = .full (encU imm rd op) ∧ (f rd).WellFormed = true) (himm : imm = w.extractLsb' 12 20)
    (hop : w.extractLsb' 0 7 = op) : Reencodes (.full w) (regField w 7 >>= fun rd => .ok (f rd)) := by
  refine reencodes_regField.2 fun rd hrd => reencodes_ok.2 ⟨(hf rd).1.trans (congrArg _ ?_), (hf rd).2⟩
  exact encU_eq_iff.2 ⟨himm, hrd.symm, hop.symm⟩

theorem decode32_reencodes (w : BitVec 32) : Reencodes (.full w) (decode32 w) := by
  refine reencodes_ite_of decodeOp_reencodes <| reencodes_ite_of decodeOpImm_reencodes <|
    reencodes_ite_of decodeLoad_reencodes <| reencodes_ite_of decodeStore_reencodes <|
    reencodes_ite_of (upper_reencodes (fun _ => ⟨rfl, rfl⟩) rfl) <|
    reencodes_ite_of (upper_reencodes (fun _ => ⟨rfl, rfl⟩) rfl) <|
    reencodes_ite_of (upper_reencodes (fun _ => ⟨rfl, rfl⟩) (fieldJ_immJ w)) <|
    reencodes_ite_of decodeJalr_reencodes <| reencodes_ite_of decodeBranch_reencodes <|
    reencodes_ite_of (fun _ => ?system) <| reencodes_ite_of (fun hop => ?fence) <|
    reencodes_ite_of (fun _ => reencodes_error) reencodes_error
  case system =>
    exact reencodes_ite_of (fun h => reencodes_ok.2 ⟨h ▸ rfl, rfl⟩)
      (reencodes_ite_of (fun h => reencodes_ok.2 ⟨h ▸ rfl, rfl⟩) reencodes_error)
  case fence =>
    refine reencodes_ite_of (fun h3 => reencodes_ok.2 ⟨congrArg InstWord.full ?_, rfl⟩) reencodes_error
    exact fenceWord_eq_iff.2 ⟨rfl, h3.symm, rfl, hop.symm⟩

/-! ### Encoding a decoded 16-bit instruction -/

theorem decodeQ0_reencodes {w : BitVec 16} (hq : w.extractLsb' 0 2 = 0b00#2) : Reencodes (.half w) (decodeQ0 w) := by
  refine choice_by_funct3 ?_ ?_ ?_ ?_ ?_ ?_ ?_ ?_
  all_goals
    intro h3
    simp +contextual [IsOf, encode, Instr.WellFormed, encCl_immCl_eq_iff, encSlot_eq_iff, encCiw_eq_iff, fieldCiw_immCiw,
      immCiw_eq_zero_iff, cIllegal_word, hq, h3]

theorem decodeQ1Alu_reencodes {w : BitVec 16} (hq : w.extractLsb' 0 2 = 0b01#2) (h3 : w.extractLsb' 13 3 = 0b100#3) :
    Reencodes (.half w) (decodeQ1Alu w) := by
  simp only [decodeQ1Alu, bit_eq_true_iff]
  refine choice_by_two_bits ?_ ?_ ?_ ?_
  all_goals
    intro hsel
    simp +contextual [IsOf, encode, Instr.WellFormed, encCb_eq_iff, encCa_eq_iff, resQ1Word_eq_iff, immCi_top, immCi_low,
      hq, h3, hsel, eq_zero_of_ne_one, three_eq_iff]

/-- C.ADDI16SP, C.LUI and their reserved words and hint (R175 to R179). -/
theorem decodeQ1_reencodes_group011 {w : BitVec 16} (hq : w.extractLsb' 0 2 = 0b01#2)
    (h3 : w.extractLsb' 13 3 = 0b011#3) : Reencodes (.half w) (decodeQ1 w) := by
  by_cases hsp : w.extractLsb' 7 5 = 2#5
  · simp +contextual [decodeQ1, IsOf, encode, Instr.WellFormed, encCi_eq_iff, hq, h3, hsp, immCi16_top, fieldCi16_immCi16,
      immCi16_eq_zero_iff, resCAddi16sp_word]
  · have hrd : ∀ r, w.extractLsb' 7 5 = reg5 r → r ≠ 2#4 := fun r hr e => hsp (hr.trans ((reg5_eq_two_iff r).2 e))
    simp +contextual [decodeQ1, IsOf, encode, Instr.WellFormed, encCi_eq_iff, hq, h3, hsp, hrd, immCi_top, immCi_low,
      immCi_eq_zero_iff, reg5_zero]

theorem decodeQ1_reencodes {w : BitVec 16} (hq : w.extractLsb' 0 2 = 0b01#2) : Reencodes (.half w) (decodeQ1 w) := by
  have hlui := decodeQ1_reencodes_group011 hq
  refine choice_by_funct3 ?_ ?_ ?_ ?group011 (decodeQ1Alu_reencodes hq) ?_ ?_ ?_
  case group011 =>
    intro h3
    simpa [decodeQ1, h3] using hlui h3
  all_goals
    intro h3
    simp +contextual [IsOf, encode, Instr.WellFormed, encCi_eq_iff, encSlot_eq_iff, encCbr_immCb_eq_iff, hq, h3, immCi_top,
      immCi_low, fieldCj_immCj, reg5_zero]

theorem decodeQ2Reg_reencodes {w : BitVec 16} (hq : w.extractLsb' 0 2 = 0b10#2) (h3 : w.extractLsb' 13 3 = 0b100#3) :
    Reencodes (.half w) (decodeQ2Reg w) := by
  simp only [decodeQ2Reg, bit_eq_true_iff, reencodes_regField]
  intro a ha b hb
  simp +contextual [IsOf, encode, Instr.WellFormed, encCi_eq_iff, hq, h3, ha, hb, eq_zero_of_ne_one, reg5_zero,
    resCJr_word, cEbreak_word]

theorem decodeQ2_reencodes {w : BitVec 16} (hq : w.extractLsb' 0 2 = 0b10#2) : Reencodes (.half w) (decodeQ2 w) := by
  simp only [decodeQ2, bit_eq_true_iff]
  refine choice_by_funct3 ?_ ?_ ?_ ?_ (decodeQ2Reg_reencodes hq) ?_ ?_ ?_
  all_goals
    intro h3
    simp +contextual [IsOf, encode, Instr.WellFormed, encCi_eq_iff, encSlot_eq_iff, encCss_immCswsp_eq_iff,
      nseCSlliWord_eq_iff, hq, h3, eq_zero_of_ne_one, reg5_zero, immClwsp_top, immClwsp_low]

theorem decode16_reencodes (w : BitVec 16) : Reencodes (.half w) (decode16 w) :=
  reencodes_ite_of decodeQ0_reencodes <| reencodes_ite_of decodeQ1_reencodes <| reencodes_ite_of decodeQ2_reencodes
    reencodes_error

/-- Settles O2: each part of the decoder answers instructions whose format has the fields that part has read. -/
theorem encodeOfDecode : Obligations.EncodeOfDecode := by
  intro w i h
  cases w with
  | half w => exact decode16_reencodes w i h
  | full w => exact decode32_reencodes w i h

/-! ### Words that raise `IllegalInstruction` (R96, R97) -/

/-- The illegal and reserved rows raise `IllegalInstruction` with their own word. -/
theorem exec_of_kind_illegal {i : Instr} (h : i.kind = .illegal) (s : State) : exec i s = raiseIllegal (encode i) s := by
  cases i
  case cIllegal | resCAddi4spn | niCFld | niCFlw | resQ0F4 | niCFsd | unQ0F7 | resCAddi16sp | resCLui | resCSrli | nseCSrli
    | resCSrai | nseCSrai | resQ1 | nseCSlli | resCSlli | niCFldsp | resCLwsp | niCFlwsp | resCJr | niCFsdsp | niCFswsp =>
    rfl
  all_goals cases h

/-- Settles O6: a rejected word raises `IllegalInstruction` with the word, and an illegal row with the word it encodes to,
which is the word fetched. -/
theorem wordsOutsideTheSetAreIllegal : Obligations.WordsOutsideTheSetAreIllegal := by
  intro s w hf hnot
  cases hd : decode w with
  | error e => exact step_of_decode_error hf hd
  | ok i =>
    have hkind : i.kind = .illegal := by
      obtain ⟨hinstruction, hhint⟩ := hnot i hd
      cases h : i.kind with
      | instruction => exact absurd h hinstruction
      | hint => exact absurd h hhint
      | illegal => rfl
    rw [Traps, step_of_decode_ok hf hd, exec_of_kind_illegal hkind, (encodeOfDecode w i hd).1]
    rfl

/-- The words of the instructions and hints name no register above `x15`: their formats hold register fields of top bit 0. -/
theorem namesHighRegister_encode {i : Instr} (h : i.kind ≠ .illegal) : namesHighRegister (encode i) = false := by
  cases i
  case cIllegal | resCAddi4spn | niCFld | niCFlw | resQ0F4 | niCFsd | unQ0F7 | resCAddi16sp | resCLui | resCSrli | nseCSrli
    | resCSrai | nseCSrai | resQ1 | nseCSlli | resCSlli | niCFldsp | resCLwsp | niCFlwsp | resCJr | niCFsdsp | niCFswsp =>
    exact absurd rfl h
  case fence hi lo =>
    obtain ⟨-, -, -, hop⟩ := fenceWord_eq_iff.1 (Eq.refl (hi ++ 0b000#3 ++ lo ++ 0b0001111#7))
    simp [namesHighRegister, encode, ← hop]
  all_goals
    simp [namesHighRegister, encode, -BitVec.getLsbD_eq_getElem, encR_rd_top, encR_rs1_top, encR_rs2_top, encI_rd_top,
      encI_rs1_top, encSh_rd_top, encSh_rs1_top, encS_rs1_top, encS_rs2_top, encB_rs1_top, encB_rs2_top, encU_rd_top,
      encCi_mid_top, encCi_lo_top, encCss_rs2_top, reg5_top]

/-- Settles O5: a word with a high register field is no word of an instruction or a hint, so it raises
`IllegalInstruction`. -/
theorem highRegisterFieldIsIllegal : Obligations.HighRegisterFieldIsIllegal := by
  intro s w hf hhigh
  refine wordsOutsideTheSetAreIllegal s w hf fun i hd => ?_
  have hkind : i.kind = .illegal := by
    by_contra h
    rw [← (encodeOfDecode w i hd).1, namesHighRegister_encode h] at hhigh
    cases hhigh
  simp [hkind]

/-! ### Instructions that complete (R16, R94) -/

theorem completes_skip (s : State) (len : Word) : Completes (skip len s) s s.readReg (s.pc + len) :=
  ⟨s.advance len, rfl, rfl, fun _ => rfl, fun _ => rfl, rfl, rfl, rfl⟩

theorem completes_finish (s : State) (rd : Reg) (v len : Word) :
    Completes (finish rd v len s) s (withReg s rd v) (s.pc + len) := by
  refine ⟨(s.writeReg rd v).advance len, rfl, ?_, fun q => ?_, fun a => ?_, ?_, ?_, ?_⟩
  · rw [State.advance_pc, State.writeReg_pc]
  · rw [State.readReg_advance, State.readReg_writeReg_eq_ite, withReg]
  · rw [State.readByte, State.advance_mem, State.writeReg_mem, State.readByte]
  · rw [State.advance_mem, State.writeReg_mem]
  · rw [State.advance_cim, State.writeReg_cim]
  · rw [State.advance_params, State.writeReg_params]

/-- Writing back what a register holds changes no register. -/
theorem withReg_self (s : State) (rd : Reg) : withReg s rd (s.readReg rd) = s.readReg := by
  funext q
  rw [withReg]
  split
  · next h => rw [h.1]
  · rfl

/-- C.ADDI with a zero immediate adds 0. -/
theorem completes_cAddi_zero (s : State) (rd : Reg) : Completes (exec (.cAddi rd 0) s) s s.readReg (s.pc + 2) := by
  have hzero : immC 0 = 0#32 := rfl
  have hregs : withReg s rd (s.readReg rd + immC 0) = s.readReg := by rw [hzero, BitVec.add_zero, withReg_self]
  exact hregs ▸ completes_finish s rd (s.readReg rd + immC 0) 2

/-- Settles O50: the words are those of the rows (O1), and every row but C.ADDI only advances `pc`. -/
theorem hintsOnlyAdvance : Obligations.HintsOnlyAdvance := fun s imm shamt rs2 rd =>
  have hskip := completes_skip s 2
  ⟨⟨decodeOfEncode (.cNop imm) rfl, hskip⟩,
    ⟨fun hrd => decodeOfEncode (.cAddi rd 0) (bne_iff_ne.2 hrd), completes_cAddi_zero s rd⟩,
    ⟨decodeOfEncode (.hintCLi imm) rfl, hskip⟩,
    ⟨fun himm => decodeOfEncode (.hintCLui imm) (bne_iff_ne.2 himm), hskip⟩,
    ⟨fun hshamt => decodeOfEncode (.hintCSlli shamt) (bne_iff_ne.2 hshamt), hskip⟩,
    ⟨fun hrs2 => decodeOfEncode (.hintCMv rs2) (bne_iff_ne.2 hrs2), hskip⟩,
    fun hrs2 => decodeOfEncode (.hintCAdd rs2) (bne_iff_ne.2 hrs2), hskip⟩

end Sys2Proof.Proofs
end

section
/-! PROOFS. The decoder and the opcode table (30_encoding.md R107): a word's row is found by narrowing the table to the rows
that share the fields the decoder has read. -/
namespace Sys2Proof.Proofs
open Sys2Proof.Machine Sys2Proof.Claims

/-! ### The first matching row -/

/-- The mnemonic of the first row that matches. -/
def tableName {n : Nat} (rows : List (OpcodeRow n)) (w : BitVec n) : Option String :=
  (firstRow rows w).map OpcodeRow.mnemonic

@[simp] theorem tableName_nil {n : Nat} (w : BitVec n) : tableName [] w = none := rfl

@[simp] theorem tableName_cons {n : Nat} (r : OpcodeRow n) (rows : List (OpcodeRow n)) (w : BitVec n) :
    tableName (r :: rows) w = if r.matches w = true then some r.mnemonic else tableName rows w := by
  cases h : r.matches w <;> simp [tableName, firstRow, h]

/-- Where a row's mask takes a whole field, a word of that row has the row's value there. -/
theorem extract_eq_of_matches {n s l : Nat} {r : OpcodeRow n} {w : BitVec n} (h : r.matches w = true)
    (hmask : r.mask.extractLsb' s l = BitVec.allOnes l) : w.extractLsb' s l = r.value.extractLsb' s l := by
  rw [← beq_iff_eq.1 h, BitVec.extractLsb'_and, hmask, BitVec.and_allOnes]

/-- Rows that differ from the word in a field that every mask takes can be left out. -/
theorem tableName_filter {n s l : Nat} {rows : List (OpcodeRow n)} {w : BitVec n} {c : BitVec l}
    (hmask : ∀ r ∈ rows, r.mask.extractLsb' s l = BitVec.allOnes l) (hw : w.extractLsb' s l = c) :
    tableName rows w = tableName (rows.filter fun r => r.value.extractLsb' s l == c) w := by
  refine congrArg (Option.map OpcodeRow.mnemonic) ?_
  rw [firstRow, firstRow, List.find?_filter]
  refine List.find?_congr fun r hr => ?_
  cases hm : r.matches w with
  | false => simp
  | true => simp [← extract_eq_of_matches hm (hmask r hr), hw]

/-- Fields that cover a word, each by its lowest bit and its length. -/
abbrev Covers (n : Nat) (fields : List (Nat × Nat)) : Prop := ∀ k < n, ∃ f ∈ fields, f.1 ≤ k ∧ k < f.1 + f.2

/-- The word has the row's value in a field, where the mask takes it. -/
@[simp] def MatchesIn {n : Nat} (r : OpcodeRow n) (w : BitVec n) (f : Nat × Nat) : Prop :=
  w.extractLsb' f.1 f.2 &&& r.mask.extractLsb' f.1 f.2 = r.value.extractLsb' f.1 f.2

/-- A row matches just when it matches in each of the fields that cover the word. -/
theorem matches_iff_fields {n : Nat} {fields : List (Nat × Nat)} (hcover : Covers n fields) {r : OpcodeRow n}
    {w : BitVec n} : r.matches w = true ↔ ∀ f ∈ fields, MatchesIn r w f := by
  simp only [OpcodeRow.matches, beq_iff_eq, MatchesIn, ← BitVec.extractLsb'_and]
  refine ⟨fun h f _ => by rw [h], fun h => BitVec.eq_of_getLsbD_eq fun k hk => ?_⟩
  obtain ⟨f, hf, hle, hlt⟩ := hcover k hk
  have hbit := congrArg (fun v => v.getLsbD (k - f.1)) (h f hf)
  have hin : k - f.1 < f.2 := by omega
  have hk : f.1 + (k - f.1) = k := by omega
  simpa only [BitVec.getLsbD_extractLsb', hin, hk, decide_true, Bool.true_and] using hbit

/-! A field under a mask that takes all of it. -/

@[simp] theorem and_ones1 (x : BitVec 1) : x &&& 1#1 = x := BitVec.and_allOnes
@[simp] theorem and_ones2 (x : BitVec 2) : x &&& 3#2 = x := BitVec.and_allOnes
@[simp] theorem and_ones3 (x : BitVec 3) : x &&& 7#3 = x := BitVec.and_allOnes
@[simp] theorem and_ones5 (x : BitVec 5) : x &&& 31#5 = x := BitVec.and_allOnes
@[simp] theorem and_ones7 (x : BitVec 7) : x &&& 127#7 = x := BitVec.and_allOnes
@[simp] theorem and_ones8 (x : BitVec 8) : x &&& 255#8 = x := BitVec.and_allOnes
@[simp] theorem and_ones32 (x : BitVec 32) : x &&& 4294967295#32 = x := BitVec.and_allOnes

/-! ### Register fields (R97): a row's mask takes the top bit only, or all five -/

/-- A register field that names `x16` to `x31`. -/
def highReg5 (r : BitVec 4) : BitVec 5 := 1#1 ++ r

@[simp] theorem reg5_and_top (r : Reg) : reg5 r &&& 16#5 = 0#5 := by revert r; decide
@[simp] theorem highReg5_and_top (r : BitVec 4) : highReg5 r &&& 16#5 = 16#5 := by revert r; decide
@[simp] theorem highReg5_ne_two (r : BitVec 4) : highReg5 r ≠ 2#5 := by revert r; decide
@[simp] theorem highReg5_ne_zero (r : BitVec 4) : highReg5 r ≠ 0#5 := by revert r; decide
@[simp] theorem reg5_eq_zero (r : Reg) : reg5 r = 0#5 ↔ r = 0#4 := reg5_eq_zero_iff r

theorem regField_eq_error_iff {n lo : Nat} {w : BitVec n} {e : Reject} :
    regField w lo = .error e ↔ e = .registerField ∧ ∃ r, w.extractLsb' lo 5 = highReg5 r := by
  have hhigh : ∀ m : BitVec 5, (∃ r, m = highReg5 r) ↔ m.getLsbD 4 = true := by decide
  rw [hhigh, field_top]
  cases h : w.getLsbD (lo + 4) with
  | false => simp [regField_ok h]
  | true => simp [regField_error h, eq_comm]

/-! ### The decoder's answer by its mnemonic -/

/-- The decoder's answer has this mnemonic, or is a rejection where there is none. -/
def IsNamed (t : Option String) (d : Decoded) : Prop := d.toOption.map Instr.mnemonic = t

section
variable {t : Option String}

@[simp] theorem isNamed_ok {i : Instr} : IsNamed t (.ok i) ↔ t = some i.mnemonic := eq_comm

@[simp] theorem isNamed_error {e : Reject} : IsNamed t (.error e) ↔ t = none := eq_comm

@[simp] theorem isNamed_ite {c : Prop} [Decidable c] {d e : Decoded} :
    IsNamed t (if c then d else e) ↔ (c → IsNamed t d) ∧ (¬ c → IsNamed t e) := by
  by_cases hc : c
  · rw [if_pos hc]; exact ⟨fun h => ⟨fun _ => h, fun hn => absurd hc hn⟩, fun h => h.1 hc⟩
  · rw [if_neg hc]; exact ⟨fun h => ⟨fun hp => absurd hp hc, fun _ => h⟩, fun h => h.2 hc⟩

theorem isNamed_regField {n lo : Nat} {w : BitVec n} {f : Reg → Decoded} :
    IsNamed t (regField w lo >>= f) ↔ (∀ r, w.extractLsb' lo 5 = reg5 r → IsNamed t (f r))
      ∧ ∀ r, w.extractLsb' lo 5 = highReg5 r → t = none := by
  have hne : ∀ r q, reg5 r ≠ highReg5 q := by decide
  cases hd : regField w lo with
  | error e =>
    obtain ⟨rfl, r, hr⟩ := regField_eq_error_iff.1 hd
    refine ⟨fun h => ⟨fun q hq => absurd (hq.symm.trans hr) (hne q r), fun _ _ => isNamed_error.1 h⟩, fun h => ?_⟩
    exact isNamed_error.2 (h.2 r hr)
  | ok r =>
    have hr := regField_eq_ok_iff.1 hd
    refine ⟨fun h => ⟨fun q hq => ?_, fun q hq => absurd (hr.symm.trans hq) (hne r q)⟩, fun h => h.1 r hr⟩
    obtain rfl := Except.ok.inj ((regField_eq_ok_iff.2 hq).symm.trans hd)
    exact h

end

/-! ### Agreement on 16-bit words -/

theorem halfRows_mask_quadrant : ∀ r ∈ halfRows, r.mask.extractLsb' 0 2 = BitVec.allOnes 2 := by decide

theorem halfRows_mask_funct3 : ∀ r ∈ halfRows, r.mask.extractLsb' 13 3 = BitVec.allOnes 3 := by decide

/-- The 16-bit rows of a quadrant and a funct3. -/
def slotRows (q : BitVec 2) (f3 : BitVec 3) : List (OpcodeRow 16) :=
  (halfRows.filter fun r => r.value.extractLsb' 0 2 == q).filter fun r => r.value.extractLsb' 13 3 == f3

theorem tableName_slot {w : BitVec 16} {q : BitVec 2} {f3 : BitVec 3} (hq : w.extractLsb' 0 2 = q)
    (h3 : w.extractLsb' 13 3 = f3) : tableName halfRows w = tableName (slotRows q f3) w := by
  rw [tableName_filter halfRows_mask_quadrant hq,
    tableName_filter (fun r hr => halfRows_mask_funct3 r (List.mem_of_mem_filter hr)) h3]
  rfl

/-- By the fields of format CIW. -/
theorem matches_iff_ciw {r : OpcodeRow 16} {w : BitVec 16} : r.matches w = true ↔
    MatchesIn r w (13, 3) ∧ MatchesIn r w (5, 8) ∧ MatchesIn r w (2, 3) ∧ MatchesIn r w (0, 2) := by
  simpa using matches_iff_fields (by decide : Covers 16 [(13, 3), (5, 8), (2, 3), (0, 2)])

/-- By the fields of formats CI and CR. -/
theorem matches_iff_ci {r : OpcodeRow 16} {w : BitVec 16} : r.matches w = true ↔
    MatchesIn r w (13, 3) ∧ MatchesIn r w (12, 1) ∧ MatchesIn r w (7, 5) ∧ MatchesIn r w (2, 5)
      ∧ MatchesIn r w (0, 2) := by
  simpa using matches_iff_fields (by decide : Covers 16 [(13, 3), (12, 1), (7, 5), (2, 5), (0, 2)])

/-- By the fields of formats CB and CA. -/
theorem matches_iff_cb {r : OpcodeRow 16} {w : BitVec 16} : r.matches w = true ↔
    MatchesIn r w (13, 3) ∧ MatchesIn r w (12, 1) ∧ MatchesIn r w (10, 2) ∧ MatchesIn r w (7, 3)
      ∧ MatchesIn r w (5, 2) ∧ MatchesIn r w (2, 3) ∧ MatchesIn r w (0, 2) := by
  simpa using
    matches_iff_fields (by decide : Covers 16 [(13, 3), (12, 1), (10, 2), (7, 3), (5, 2), (2, 3), (0, 2)])

/-- The shift amount of group `100` is the fields of CA in one. -/
theorem shamt_eq_zero_iff {w : BitVec 16} :
    w.extractLsb' 2 5 = 0 ↔ w.extractLsb' 5 2 = 0#2 ∧ w.extractLsb' 2 3 = 0#3 := by
  have hjoin : w.extractLsb' 5 2 ++ w.extractLsb' 2 3 = w.extractLsb' 2 5 := extract_join w rfl
  rw [← hjoin]
  exact append_eq_iff

theorem eq_zero_iff_ne_one {x : BitVec 1} : x = 0#1 ↔ ¬ x = 1#1 := by revert x; decide

theorem decodeQ0_agrees {w : BitVec 16} (hq : w.extractLsb' 0 2 = 0b00#2) :
    IsNamed (tableName halfRows w) (decodeQ0 w) := by
  refine choice_by_funct3 (fun h3 => ?group000) ?_ ?_ ?_ ?_ ?_ ?_ ?_
  case group000 =>
    rw [tableName_slot hq h3]
    by_cases himm : w.extractLsb' 5 8 = 0#8 <;> by_cases hrd : w.extractLsb' 2 3 = 0#3 <;>
      simp [slotRows, halfRows, halfRowsA, halfRowsB, halfRowsC, matches_iff_ciw, hq, h3, immCiw_eq_zero_iff, himm, hrd,
        Instr.mnemonic]
  all_goals
    intro h3
    rw [tableName_slot hq h3]
    simp [slotRows, halfRows, halfRowsA, halfRowsB, halfRowsC, matches_iff_ciw, hq, h3, Instr.mnemonic]

/-- What the table says of group `011` of Quadrant 1. -/
theorem tableName_q1_011 {w : BitVec 16} (hq : w.extractLsb' 0 2 = 0b01#2) (h3 : w.extractLsb' 13 3 = 0b011#3) :
    tableName halfRows w =
      if w.extractLsb' 12 1 = 0#1 ∧ w.extractLsb' 7 5 = 2#5 ∧ w.extractLsb' 2 5 = 0#5 then
        some "reserved__C.ADDI16SP_nzimm_0"
      else if w.extractLsb' 7 5 = 2#5 then some "C.ADDI16SP"
      else if w.extractLsb' 12 1 = 0#1 ∧ w.extractLsb' 2 5 = 0#5 then some "reserved__C.LUI_nzimm_0"
      else if w.extractLsb' 7 5 = 0#5 then some "hint__C.LUI_rd_0"
      else if w.extractLsb' 7 5 &&& 16#5 = 0#5 then some "C.LUI"
      else none := by
  rw [tableName_slot hq h3]
  simp [slotRows, halfRows, halfRowsA, halfRowsB, halfRowsC, matches_iff_ci, hq, h3]

/-- What the table says of group `100` of Quadrant 1. -/
theorem tableName_q1_100 {w : BitVec 16} (hq : w.extractLsb' 0 2 = 0b01#2) (h3 : w.extractLsb' 13 3 = 0b100#3) :
    tableName halfRows w =
      if w.extractLsb' 12 1 = 0#1 ∧ w.extractLsb' 10 2 = 0#2 ∧ w.extractLsb' 5 2 = 0#2 ∧ w.extractLsb' 2 3 = 0#3 then
        some "reserved__C.SRLI_shamt_0"
      else if w.extractLsb' 12 1 = 0#1 ∧ w.extractLsb' 10 2 = 0#2 then some "C.SRLI"
      else if w.extractLsb' 12 1 = 1#1 ∧ w.extractLsb' 10 2 = 0#2 then some "NSE__C.SRLI_nzuimm_5__1"
      else if w.extractLsb' 12 1 = 0#1 ∧ w.extractLsb' 10 2 = 1#2 ∧ w.extractLsb' 5 2 = 0#2 ∧ w.extractLsb' 2 3 = 0#3 then
        some "reserved__C.SRAI_shamt_0"
      else if w.extractLsb' 12 1 = 0#1 ∧ w.extractLsb' 10 2 = 1#2 then some "C.SRAI"
      else if w.extractLsb' 12 1 = 1#1 ∧ w.extractLsb' 10 2 = 1#2 then some "NSE__C.SRAI_nzuimm_5__1"
      else if w.extractLsb' 10 2 = 2#2 then some "C.ANDI"
      else if w.extractLsb' 12 1 = 0#1 ∧ w.extractLsb' 10 2 = 3#2 ∧ w.extractLsb' 5 2 = 0#2 then some "C.SUB"
      else if w.extractLsb' 12 1 = 0#1 ∧ w.extractLsb' 10 2 = 3#2 ∧ w.extractLsb' 5 2 = 1#2 then some "C.XOR"
      else if w.extractLsb' 12 1 = 0#1 ∧ w.extractLsb' 10 2 = 3#2 ∧ w.extractLsb' 5 2 = 2#2 then some "C.OR"
      else if w.extractLsb' 12 1 = 0#1 ∧ w.extractLsb' 10 2 = 3#2 ∧ w.extractLsb' 5 2 = 3#2 then some "C.AND"
      else if w.extractLsb' 12 1 = 1#1 ∧ w.extractLsb' 10 2 = 3#2 then some "reserved__Q1_100_1_11"
      else none := by
  rw [tableName_slot hq h3]
  simp [slotRows, halfRows, halfRowsA, halfRowsB, halfRowsC, matches_iff_cb, hq, h3]

theorem decodeQ1Alu_agrees {w : BitVec 16} (hq : w.extractLsb' 0 2 = 0b01#2) (h3 : w.extractLsb' 13 3 = 0b100#3) :
    IsNamed (tableName halfRows w) (decodeQ1Alu w) := by
  simp only [decodeQ1Alu, bit_eq_true_iff, shamt_eq_zero_iff, tableName_q1_100 hq h3, eq_zero_iff_ne_one]
  by_cases h12 : w.extractLsb' 12 1 = 1#1
  · refine choice_by_two_bits ?_ ?_ ?_ ?_
    all_goals
      intro hsel
      simp [h12, hsel, Instr.mnemonic]
  · refine choice_by_two_bits ?_ ?_ ?_ (fun hsel => ?group11)
    case group11 =>
      simp only [h12, hsel, if_false]
      refine choice_by_two_bits ?_ ?_ ?_ ?_
      all_goals
        intro hop
        simp [hop, Instr.mnemonic]
    all_goals
      intro hsel
      by_cases hs : w.extractLsb' 5 2 = 0#2 ∧ w.extractLsb' 2 3 = 0#3 <;> simp [h12, hsel, hs, Instr.mnemonic]

theorem decodeQ1_agrees {w : BitVec 16} (hq : w.extractLsb' 0 2 = 0b01#2) :
    IsNamed (tableName halfRows w) (decodeQ1 w) := by
  refine choice_by_funct3 (fun h3 => ?group000) ?_ (fun h3 => ?group010) (fun h3 => ?group011) (decodeQ1Alu_agrees hq)
    ?_ ?_ ?_
  case group000 | group010 =>
    rw [tableName_slot hq h3]
    refine isNamed_regField.2 ⟨fun rd hrd => ?_, fun rd hrd => ?_⟩
    · by_cases h0 : rd = 0#4 <;>
        simp [slotRows, halfRows, halfRowsA, halfRowsB, halfRowsC, matches_iff_ci, hq, h3, hrd, h0, Instr.mnemonic]
    · simp [slotRows, halfRows, halfRowsA, halfRowsB, halfRowsC, matches_iff_ci, hq, h3, hrd]
  case group011 =>
    rw [tableName_q1_011 hq h3]
    refine isNamed_ite.2 ⟨fun (hsp : w.extractLsb' 7 5 = 2#5) => ?_, fun (hsp : ¬ w.extractLsb' 7 5 = 2#5) => ?_⟩
    · by_cases hz : w.extractLsb' 12 1 = 0#1 ∧ w.extractLsb' 2 5 = 0#5 <;>
        simp [immCi16_eq_zero_iff, hsp, hz, Instr.mnemonic]
    · refine isNamed_ite.2 ⟨fun (hz : immCi w = 0#6) => ?_, fun (hz : ¬ immCi w = 0#6) => ?_⟩
      · simp [hsp, immCi_eq_zero_iff.1 hz, Instr.mnemonic]
      · have hz := mt immCi_eq_zero_iff.2 hz
        refine isNamed_regField.2 ⟨fun rd hrd => ?_, fun rd hrd => ?_⟩
        · have h2 : rd ≠ 2#4 := fun e => hsp (hrd.trans ((reg5_eq_two_iff rd).2 e))
          by_cases h0 : rd = 0#4 <;> simp [hz, hrd, h0, h2, reg5_eq_two_iff, Instr.mnemonic]
        · simp [hz, hrd]
  all_goals
    intro h3
    rw [tableName_slot hq h3]
    simp [slotRows, halfRows, halfRowsA, halfRowsB, halfRowsC, matches_iff_ci, hq, h3, Instr.mnemonic]

/-- What the table says of group `000` of Quadrant 2. -/
theorem tableName_q2_000 {w : BitVec 16} (hq : w.extractLsb' 0 2 = 0b10#2) (h3 : w.extractLsb' 13 3 = 0b000#3) :
    tableName halfRows w =
      if w.extractLsb' 12 1 = 1#1 then some "NSE__C.SLLI_nzuimm_5__1"
      else if w.extractLsb' 12 1 = 0#1 ∧ w.extractLsb' 2 5 = 0#5 then some "reserved__C.SLLI_shamt_0"
      else if w.extractLsb' 12 1 = 0#1 ∧ w.extractLsb' 7 5 = 0#5 then some "hint__C.SLLI_rd_0"
      else if w.extractLsb' 12 1 = 0#1 ∧ w.extractLsb' 7 5 &&& 16#5 = 0#5 then some "C.SLLI"
      else none := by
  rw [tableName_slot hq h3]
  simp [slotRows, halfRows, halfRowsA, halfRowsB, halfRowsC, matches_iff_ci, hq, h3]

/-- What the table says of group `100` of Quadrant 2. -/
theorem tableName_q2_100 {w : BitVec 16} (hq : w.extractLsb' 0 2 = 0b10#2) (h3 : w.extractLsb' 13 3 = 0b100#3) :
    tableName halfRows w =
      if w.extractLsb' 12 1 = 0#1 ∧ w.extractLsb' 7 5 = 0#5 ∧ w.extractLsb' 2 5 = 0#5 then some "reserved__C.JR_rs1_0"
      else if w.extractLsb' 12 1 = 0#1 ∧ w.extractLsb' 7 5 &&& 16#5 = 0#5 ∧ w.extractLsb' 2 5 = 0#5 then some "C.JR"
      else if w.extractLsb' 12 1 = 0#1 ∧ w.extractLsb' 7 5 = 0#5 ∧ w.extractLsb' 2 5 &&& 16#5 = 0#5 then
        some "hint__C.MV_rd_0"
      else if w.extractLsb' 12 1 = 0#1 ∧ w.extractLsb' 7 5 &&& 16#5 = 0#5 ∧ w.extractLsb' 2 5 &&& 16#5 = 0#5 then
        some "C.MV"
      else if w.extractLsb' 12 1 = 1#1 ∧ w.extractLsb' 7 5 = 0#5 ∧ w.extractLsb' 2 5 = 0#5 then some "C.EBREAK"
      else if w.extractLsb' 12 1 = 1#1 ∧ w.extractLsb' 7 5 &&& 16#5 = 0#5 ∧ w.extractLsb' 2 5 = 0#5 then some "C.JALR"
      else if w.extractLsb' 12 1 = 1#1 ∧ w.extractLsb' 7 5 = 0#5 ∧ w.extractLsb' 2 5 &&& 16#5 = 0#5 then
        some "hint__C.ADD_rd_0"
      else if w.extractLsb' 12 1 = 1#1 ∧ w.extractLsb' 7 5 &&& 16#5 = 0#5 ∧ w.extractLsb' 2 5 &&& 16#5 = 0#5 then
        some "C.ADD"
      else none := by
  rw [tableName_slot hq h3]
  simp [slotRows, halfRows, halfRowsA, halfRowsB, halfRowsC, matches_iff_ci, hq, h3]

theorem decodeQ2Reg_agrees {w : BitVec 16} (hq : w.extractLsb' 0 2 = 0b10#2) (h3 : w.extractLsb' 13 3 = 0b100#3) :
    IsNamed (tableName halfRows w) (decodeQ2Reg w) := by
  simp only [decodeQ2Reg, bit_eq_true_iff, tableName_q2_100 hq h3, eq_zero_iff_ne_one]
  refine isNamed_regField.2 ⟨fun a ha => isNamed_regField.2 ⟨fun b hb => ?_, fun b hb => ?_⟩, fun a ha => ?_⟩
  · by_cases h12 : w.extractLsb' 12 1 = 1#1 <;> by_cases hb0 : b = 0#4 <;> by_cases ha0 : a = 0#4 <;>
      simp [h12, ha, hb, ha0, hb0, Instr.mnemonic]
  · simp [ha, hb]
  · simp [ha]

theorem decodeQ2_agrees {w : BitVec 16} (hq : w.extractLsb' 0 2 = 0b10#2) :
    IsNamed (tableName halfRows w) (decodeQ2 w) := by
  simp only [decodeQ2, bit_eq_true_iff]
  refine choice_by_funct3 (fun h3 => ?group000) ?_ (fun h3 => ?group010) ?_ (decodeQ2Reg_agrees hq) ?_
    (fun h3 => ?group110) ?_
  case group000 =>
    rw [tableName_q2_000 hq h3]
    refine isNamed_ite.2 ⟨fun h12 => ?_, fun h12 => isNamed_ite.2
      ⟨fun (hs : w.extractLsb' 2 5 = 0#5) => ?_, fun (hs : ¬ w.extractLsb' 2 5 = 0#5) => ?_⟩⟩
    · simp [h12, Instr.mnemonic]
    · simp [h12, hs, eq_zero_iff_ne_one, Instr.mnemonic]
    · refine isNamed_regField.2 ⟨fun rd hrd => ?_, fun rd hrd => ?_⟩
      · by_cases h0 : rd = 0#4 <;> simp [h12, hs, hrd, h0, eq_zero_iff_ne_one, Instr.mnemonic]
      · simp [h12, hs, hrd]
  case group010 =>
    rw [tableName_slot hq h3]
    refine isNamed_regField.2 ⟨fun rd hrd => ?_, fun rd hrd => ?_⟩
    · by_cases h0 : rd = 0#4 <;>
        simp [slotRows, halfRows, halfRowsA, halfRowsB, halfRowsC, matches_iff_ci, hq, h3, hrd, h0, Instr.mnemonic]
    · simp [slotRows, halfRows, halfRowsA, halfRowsB, halfRowsC, matches_iff_ci, hq, h3, hrd]
  case group110 =>
    rw [tableName_slot hq h3]
    refine isNamed_regField.2 ⟨fun rs2 hrs2 => ?_, fun rs2 hrs2 => ?_⟩ <;>
      simp [slotRows, halfRows, halfRowsA, halfRowsB, halfRowsC, matches_iff_ci, hq, h3, hrs2, Instr.mnemonic]
  all_goals
    intro h3
    rw [tableName_slot hq h3]
    simp [slotRows, halfRows, halfRowsA, halfRowsB, halfRowsC, matches_iff_ci, hq, h3, Instr.mnemonic]

theorem decode16_agrees (w : BitVec 16) : IsNamed (tableName halfRows w) (decode16 w) := by
  refine choice_by_two_bits decodeQ0_agrees decodeQ1_agrees decodeQ2_agrees fun hq => ?_
  have hnone : (halfRows.filter fun r => r.value.extractLsb' 0 2 == 0b11#2) = [] := by decide
  rw [isNamed_error, tableName_filter halfRows_mask_quadrant hq, hnone, tableName_nil]

/-! ### Agreement on 32-bit words -/

theorem fullRows_mask_opcode : ∀ r ∈ fullRows, r.mask.extractLsb' 0 7 = BitVec.allOnes 7 := by decide

/-- The 32-bit rows of an opcode. -/
def opcodeRows (op : BitVec 7) : List (OpcodeRow 32) := fullRows.filter fun r => r.value.extractLsb' 0 7 == op

theorem tableName_opcode {w : BitVec 32} {op : BitVec 7} (hop : w.extractLsb' 0 7 = op) :
    tableName fullRows w = tableName (opcodeRows op) w := tableName_filter fullRows_mask_opcode hop

/-- By the fields of format R. -/
theorem matches_iff_r {r : OpcodeRow 32} {w : BitVec 32} : r.matches w = true ↔
    MatchesIn r w (25, 7) ∧ MatchesIn r w (20, 5) ∧ MatchesIn r w (15, 5) ∧ MatchesIn r w (12, 3) ∧ MatchesIn r w (7, 5)
      ∧ MatchesIn r w (0, 7) := by
  simpa using matches_iff_fields (by decide : Covers 32 [(25, 7), (20, 5), (15, 5), (12, 3), (7, 5), (0, 7)])

theorem tableName_eq_none {n : Nat} {rows : List (OpcodeRow n)} {w : BitVec n} (h : ∀ r ∈ rows, r.matches w = false) :
    tableName rows w = none := by
  rw [tableName, Option.map_eq_none_iff, firstRow, List.find?_eq_none]
  exact fun r hr => Bool.eq_false_iff.1 (h r hr)

/-- Rows with a register field match no word that has a high register there. -/
theorem tableName_eq_none_of_highReg {n lo : Nat} {rows : List (OpcodeRow n)} {w : BitVec n} {q : BitVec 4}
    (hrows : ∀ r ∈ rows, r.mask.extractLsb' lo 5 = 16#5 ∧ r.value.extractLsb' lo 5 = 0#5)
    (hw : w.extractLsb' lo 5 = highReg5 q) : tableName rows w = none := by
  refine tableName_eq_none fun r hr => Bool.eq_false_iff.2 fun hm => ?_
  obtain ⟨hmask, hvalue⟩ := hrows r hr
  have h := congrArg (BitVec.extractLsb' lo 5) (beq_iff_eq.1 hm)
  rw [BitVec.extractLsb'_and, hmask, hvalue, hw, highReg5_and_top] at h
  cases h

theorem tableName_opcode_none {w : BitVec 32} {op : BitVec 7} {lo : Nat} {q : BitVec 4} (hop : w.extractLsb' 0 7 = op)
    (hrows : ∀ r ∈ opcodeRows op, r.mask.extractLsb' lo 5 = 16#5 ∧ r.value.extractLsb' lo 5 = 0#5)
    (hw : w.extractLsb' lo 5 = highReg5 q) : tableName fullRows w = none :=
  (tableName_opcode hop).trans (tableName_eq_none_of_highReg hrows hw)

/-- What the table says of opcode `0110011` where the register fields are low. -/
theorem tableName_op {w : BitVec 32} {rd rs1 rs2 : Reg} (hop : w.extractLsb' 0 7 = 0b0110011#7)
    (hrd : w.extractLsb' 7 5 = reg5 rd) (hrs1 : w.extractLsb' 15 5 = reg5 rs1) (hrs2 : w.extractLsb' 20 5 = reg5 rs2) :
    tableName fullRows w =
      if w.extractLsb' 25 7 = 0#7 ∧ w.extractLsb' 12 3 = 0#3 then some "ADD"
      else if w.extractLsb' 25 7 = 32#7 ∧ w.extractLsb' 12 3 = 0#3 then some "SUB"
      else if w.extractLsb' 25 7 = 0#7 ∧ w.extractLsb' 12 3 = 2#3 then some "SLT"
      else if w.extractLsb' 25 7 = 0#7 ∧ w.extractLsb' 12 3 = 3#3 then some "SLTU"
      else if w.extractLsb' 25 7 = 0#7 ∧ w.extractLsb' 12 3 = 7#3 then some "AND"
      else if w.extractLsb' 25 7 = 0#7 ∧ w.extractLsb' 12 3 = 6#3 then some "OR"
      else if w.extractLsb' 25 7 = 0#7 ∧ w.extractLsb' 12 3 = 4#3 then some "XOR"
      else if w.extractLsb' 25 7 = 0#7 ∧ w.extractLsb' 12 3 = 1#3 then some "SLL"
      else if w.extractLsb' 25 7 = 0#7 ∧ w.extractLsb' 12 3 = 5#3 then some "SRL"
      else if w.extractLsb' 25 7 = 32#7 ∧ w.extractLsb' 12 3 = 5#3 then some "SRA"
      else none := by
  rw [tableName_opcode hop]
  simp [opcodeRows, fullRows, fullRowsA, fullRowsB, fullRowsC, matches_iff_r, hop, hrd, hrs1, hrs2]

theorem decodeOp_agrees {w : BitVec 32} (hop : w.extractLsb' 0 7 = 0b0110011#7) :
    IsNamed (tableName fullRows w) (decodeOp w) := by
  refine isNamed_regField.2 ⟨fun rd hrd => isNamed_regField.2 ⟨fun rs1 hrs1 => isNamed_regField.2 ⟨fun rs2 hrs2 => ?_,
    fun _ hrs2 => ?_⟩, fun _ hrs1 => ?_⟩, fun _ hrd => ?_⟩
  · rw [tableName_op hop hrd hrs1 hrs2]
    refine isNamed_ite.2 ⟨fun h7 => choice_by_funct3 ?_ ?_ ?_ ?_ ?_ ?_ ?_ ?_,
      fun h7 => isNamed_ite.2 ⟨fun h7' => ?subSra, fun h7' => ?noRow⟩⟩
    case noRow => simp [h7, h7']
    case subSra =>
      by_cases h0 : w.extractLsb' 12 3 = 0#3 <;> by_cases h5 : w.extractLsb' 12 3 = 5#3 <;>
        simp [h7', h0, h5, Instr.mnemonic]
    all_goals
      intro h3
      simp [h7, h3, Instr.mnemonic]
  · exact tableName_opcode_none hop (by decide) hrs2
  · exact tableName_opcode_none hop (by decide) hrs1
  · exact tableName_opcode_none hop (by decide) hrd

/-- What the table says of opcode `0010011` where the register fields are low. -/
theorem tableName_opImm {w : BitVec 32} {rd rs1 : Reg} (hop : w.extractLsb' 0 7 = 0b0010011#7)
    (hrd : w.extractLsb' 7 5 = reg5 rd) (hrs1 : w.extractLsb' 15 5 = reg5 rs1) :
    tableName fullRows w =
      if w.extractLsb' 12 3 = 0#3 then some "ADDI"
      else if w.extractLsb' 12 3 = 2#3 then some "SLTI"
      else if w.extractLsb' 12 3 = 3#3 then some "SLTIU"
      else if w.extractLsb' 12 3 = 7#3 then some "ANDI"
      else if w.extractLsb' 12 3 = 6#3 then some "ORI"
      else if w.extractLsb' 12 3 = 4#3 then some "XORI"
      else if w.extractLsb' 25 7 = 0#7 ∧ w.extractLsb' 12 3 = 1#3 then some "SLLI"
      else if w.extractLsb' 25 7 = 0#7 ∧ w.extractLsb' 12 3 = 5#3 then some "SRLI"
      else if w.extractLsb' 25 7 = 32#7 ∧ w.extractLsb' 12 3 = 5#3 then some "SRAI"
      else none := by
  rw [tableName_opcode hop]
  simp [opcodeRows, fullRows, fullRowsA, fullRowsB, fullRowsC, matches_iff_r, hop, hrd, hrs1]

theorem decodeOpImm_agrees {w : BitVec 32} (hop : w.extractLsb' 0 7 = 0b0010011#7) :
    IsNamed (tableName fullRows w) (decodeOpImm w) := by
  refine isNamed_regField.2 ⟨fun rd hrd => isNamed_regField.2 ⟨fun rs1 hrs1 => ?_, fun _ hrs1 => ?_⟩, fun _ hrd => ?_⟩
  · rw [tableName_opImm hop hrd hrs1]
    refine choice_by_funct3 ?_ ?_ ?_ ?_ ?_ ?_ ?_ ?_
    all_goals
      intro h3
      by_cases h0 : w.extractLsb' 25 7 = 0#7 <;> by_cases h32 : w.extractLsb' 25 7 = 32#7 <;>
        simp [h3, h0, h32, Instr.mnemonic]
  · exact tableName_opcode_none hop (by decide) hrs1
  · exact tableName_opcode_none hop (by decide) hrd

/-- What the table says of opcode `0000011` where the register fields are low. -/
theorem tableName_load {w : BitVec 32} {rd rs1 : Reg} (hop : w.extractLsb' 0 7 = 0b0000011#7)
    (hrd : w.extractLsb' 7 5 = reg5 rd) (hrs1 : w.extractLsb' 15 5 = reg5 rs1) :
    tableName fullRows w =
      if w.extractLsb' 12 3 = 2#3 then some "LW"
      else if w.extractLsb' 12 3 = 1#3 then some "LH"
      else if w.extractLsb' 12 3 = 5#3 then some "LHU"
      else if w.extractLsb' 12 3 = 0#3 then some "LB"
      else if w.extractLsb' 12 3 = 4#3 then some "LBU"
      else none := by
  rw [tableName_opcode hop]
  simp [opcodeRows, fullRows, fullRowsA, fullRowsB, fullRowsC, matches_iff_r, hop, hrd, hrs1]

theorem decodeLoad_agrees {w : BitVec 32} (hop : w.extractLsb' 0 7 = 0b0000011#7) :
    IsNamed (tableName fullRows w) (decodeLoad w) := by
  refine isNamed_regField.2 ⟨fun rd hrd => isNamed_regField.2 ⟨fun rs1 hrs1 => ?_, fun _ hrs1 => ?_⟩, fun _ hrd => ?_⟩
  · rw [tableName_load hop hrd hrs1]
    rcases cases_of_three_bits (w.extractLsb' 12 3) with h3 | h3 | h3 | h3 | h3 | h3 | h3 | h3 <;>
      simp [h3, Instr.mnemonic]
  · exact tableName_opcode_none hop (by decide) hrs1
  · exact tableName_opcode_none hop (by decide) hrd

/-- What the table says of opcode `0100011` where the register fields are low. -/
theorem tableName_store {w : BitVec 32} {rs1 rs2 : Reg} (hop : w.extractLsb' 0 7 = 0b0100011#7)
    (hrs1 : w.extractLsb' 15 5 = reg5 rs1) (hrs2 : w.extractLsb' 20 5 = reg5 rs2) :
    tableName fullRows w =
      if w.extractLsb' 12 3 = 2#3 then some "SW"
      else if w.extractLsb' 12 3 = 1#3 then some "SH"
      else if w.extractLsb' 12 3 = 0#3 then some "SB"
      else none := by
  rw [tableName_opcode hop]
  simp [opcodeRows, fullRows, fullRowsA, fullRowsB, fullRowsC, matches_iff_r, hop, hrs1, hrs2]

theorem decodeStore_agrees {w : BitVec 32} (hop : w.extractLsb' 0 7 = 0b0100011#7) :
    IsNamed (tableName fullRows w) (decodeStore w) := by
  refine isNamed_regField.2 ⟨fun rs1 hrs1 => isNamed_regField.2 ⟨fun rs2 hrs2 => ?_, fun _ hrs2 => ?_⟩, fun _ hrs1 => ?_⟩
  · rw [tableName_store hop hrs1 hrs2]
    rcases cases_of_three_bits (w.extractLsb' 12 3) with h3 | h3 | h3 | h3 | h3 | h3 | h3 | h3 <;>
      simp [h3, Instr.mnemonic]
  · exact tableName_opcode_none hop (by decide) hrs2
  · exact tableName_opcode_none hop (by decide) hrs1

/-- What the table says of opcode `1100011` where the register fields are low. -/
theorem tableName_branch {w : BitVec 32} {rs1 rs2 : Reg} (hop : w.extractLsb' 0 7 = 0b1100011#7)
    (hrs1 : w.extractLsb' 15 5 = reg5 rs1) (hrs2 : w.extractLsb' 20 5 = reg5 rs2) :
    tableName fullRows w =
      if w.extractLsb' 12 3 = 0#3 then some "BEQ"
      else if w.extractLsb' 12 3 = 1#3 then some "BNE"
      else if w.extractLsb' 12 3 = 4#3 then some "BLT"
      else if w.extractLsb' 12 3 = 5#3 then some "BGE"
      else if w.extractLsb' 12 3 = 6#3 then some "BLTU"
      else if w.extractLsb' 12 3 = 7#3 then some "BGEU"
      else none := by
  rw [tableName_opcode hop]
  simp [opcodeRows, fullRows, fullRowsA, fullRowsB, fullRowsC, matches_iff_r, hop, hrs1, hrs2]

theorem decodeBranch_agrees {w : BitVec 32} (hop : w.extractLsb' 0 7 = 0b1100011#7) :
    IsNamed (tableName fullRows w) (decodeBranch w) := by
  refine isNamed_regField.2 ⟨fun rs1 hrs1 => isNamed_regField.2 ⟨fun rs2 hrs2 => ?_, fun _ hrs2 => ?_⟩, fun _ hrs1 => ?_⟩
  · rw [tableName_branch hop hrs1 hrs2]
    rcases cases_of_three_bits (w.extractLsb' 12 3) with h3 | h3 | h3 | h3 | h3 | h3 | h3 | h3 <;>
      simp [h3, Instr.mnemonic]
  · exact tableName_opcode_none hop (by decide) hrs2
  · exact tableName_opcode_none hop (by decide) hrs1

theorem decodeJalr_agrees {w : BitVec 32} (hop : w.extractLsb' 0 7 = 0b1100111#7) :
    IsNamed (tableName fullRows w) (decodeJalr w) := by
  rw [tableName_opcode hop]
  refine isNamed_regField.2 ⟨fun rd hrd => isNamed_regField.2 ⟨fun rs1 hrs1 => ?_, fun _ hrs1 => ?_⟩, fun _ hrd => ?_⟩
  · by_cases h3 : w.extractLsb' 12 3 = 0#3 <;>
      simp [opcodeRows, fullRows, fullRowsA, fullRowsB, fullRowsC, matches_iff_r, hop, hrd, hrs1, h3, Instr.mnemonic]
  · exact tableName_eq_none_of_highReg (by decide) hrs1
  · exact tableName_eq_none_of_highReg (by decide) hrd

/-- Every row has one of the eleven listed opcodes (R89). -/
theorem fullRows_opcodes : ∀ r ∈ fullRows, r.value.extractLsb' 0 7 ∈ [0b0110011#7, 0b0010011#7, 0b0000011#7, 0b0100011#7,
    0b0110111#7, 0b0010111#7, 0b1101111#7, 0b1100111#7, 0b1100011#7, 0b1110011#7, 0b0001111#7] := by decide

theorem decode32_agrees (w : BitVec 32) : IsNamed (tableName fullRows w) (decode32 w) := by
  refine isNamed_ite.2 ⟨decodeOp_agrees, fun h1 => isNamed_ite.2 ⟨decodeOpImm_agrees, fun h2 =>
    isNamed_ite.2 ⟨decodeLoad_agrees, fun h3 => isNamed_ite.2 ⟨decodeStore_agrees, fun h4 =>
    isNamed_ite.2 ⟨fun hop => ?lui, fun h5 => isNamed_ite.2 ⟨fun hop => ?auipc, fun h6 =>
    isNamed_ite.2 ⟨fun hop => ?jal, fun h7 => isNamed_ite.2 ⟨decodeJalr_agrees, fun h8 =>
    isNamed_ite.2 ⟨decodeBranch_agrees, fun h9 => isNamed_ite.2 ⟨fun hop => ?system, fun h10 =>
    isNamed_ite.2 ⟨fun hop => ?fence, fun h11 => ?unlisted⟩⟩⟩⟩⟩⟩⟩⟩⟩⟩⟩
  case lui | auipc | jal =>
    rw [tableName_opcode hop]
    refine isNamed_regField.2 ⟨fun rd hrd => ?_, fun _ hrd => tableName_eq_none_of_highReg (by decide) hrd⟩
    simp [opcodeRows, fullRows, fullRowsA, fullRowsB, fullRowsC, matches_iff_r, hop, hrd, Instr.mnemonic]
  case system =>
    rw [tableName_opcode hop]
    by_cases hbreak : w = 0x00100073#32 <;> by_cases hcall : w = 0x00000073#32 <;>
      simp [opcodeRows, fullRows, fullRowsA, fullRowsB, fullRowsC, OpcodeRow.matches, hbreak, hcall, Instr.mnemonic]
  case fence =>
    rw [tableName_opcode hop]
    by_cases h3 : w.extractLsb' 12 3 = 0#3 <;>
      simp [opcodeRows, fullRows, fullRowsA, fullRowsB, fullRowsC, matches_iff_r, hop, h3, Instr.mnemonic]
  case unlisted =>
    have hnone : tableName fullRows w = none := by
      refine tableName_eq_none fun r hr => Bool.eq_false_iff.2 fun hm => ?_
      have hop := fullRows_opcodes r hr
      rw [← extract_eq_of_matches hm (fullRows_mask_opcode r hr)] at hop
      simp [h1, h2, h3, h4, h5, h6, h7, h8, h9, h10, h11] at hop
    exact isNamed_ite.2 ⟨fun _ => isNamed_error.2 hnone, fun _ => isNamed_error.2 hnone⟩

/-- Settles O3: in each group of words the table, narrowed to the rows of the group, tells them apart as the decoder does. -/
theorem decoderAgreesWithOpcodeTable : Obligations.DecoderAgreesWithOpcodeTable :=
  ⟨decode16_agrees, decode32_agrees⟩

end Sys2Proof.Proofs
end

section
/-! PROOFS. The CIM family (40_cim_and_multiply.md): that no step reaches the unit, what each action does to it, and the two
procedures as loops over their rounds. -/
namespace Sys2Proof.Proofs
open Sys2Proof.Machine Sys2Proof.Claims

/-! ### No instruction reaches the unit (R131) -/

theorem cim_of_writesOnly {s t : State} (h : WritesOnly s t) : t.cim = s.cim := by
  obtain ⟨rd, v, p, rfl⟩ := h
  rw [State.setPc_cim, State.writeReg_cim]

theorem cim_of_stores {s t : State} (h : Stores s t) : t.cim = s.cim := by
  obtain ⟨n, a, v, p, -, -, -, rfl⟩ := h
  rw [State.setPc_cim, State.setMem_cim]

theorem cim_of_step {s t : State} (h : step s = .next t) : t.cim = s.cim := by
  obtain ⟨_, _, -, -, hexec⟩ := step_next h
  exact (exec_next hexec).elim cim_of_writesOnly cim_of_stores

/-- Settles O22: a step is a register write or a store, and neither touches the unit; `KeepsCode` has the
parameters. -/
theorem cimUnitAndParametersAreInert : Obligations.CimUnitAndParametersAreInert := by
  intro n s t h
  have hcim : t.cim = s.cim :=
    run_keeps (P := fun u => u.cim = s.cim) (fun _ _ hu hstep => (cim_of_step hstep).trans hu) rfl h
  exact ⟨hcim, (keepsCode_of_run h).params⟩

/-! ### Precision codes and refused actions (R120, R125, R129) -/

/-- Settles O51: both are `2^code` by definition; the four codes are evaluated. -/
theorem precisionCodes : Obligations.PrecisionCodes := ⟨fun _ => ⟨rfl, rfl⟩, by decide, by decide⟩

/-- Settles O54: the model's answer in a READ mode other than forward. -/
theorem undescribedModesAreRefused : Obligations.UndescribedModesAreRefused := fun _ _ => doA_other

/-- Settles O58: two different bits of `RS` are several rows. -/
theorem severalRowsWriteIsRefused : Obligations.SeveralRowsWriteIsRefused :=
  fun _ s hop hrows => doA_several hop ((severalRows_iff s.cim.rs).2 hrows)

/-! ### The actions (R125, R127) -/

/-- Another CIM unit leaves the CPU as it is. -/
theorem sameCpu_setCim (s : State) (c : CimState) : SameCpu (s.setCim c) s := ⟨rfl, fun _ => rfl, rfl, rfl⟩

/-- A corelet put in place of another is found there. -/
theorem corelet_set_self (cells : Vector Corelet 16) (k : Fin 16) (new : Corelet) : (cells.set k new)[k] = new :=
  Vector.getElem_set_self k.isLt

/-- The other corelets stay. -/
theorem corelet_set_of_ne (cells : Vector Corelet 16) {k j : Fin 16} (new : Corelet) (h : j ≠ k) :
    (cells.set k new)[j] = cells[j] :=
  Vector.getElem_set_ne k.isLt j.isLt fun e => h (Fin.ext e.symm)

/-- A cell of the corelet a WRITE action programs. -/
theorem cell_set_programCorelet (cells : Vector Corelet 16) (k : Fin 16) (rs wds : BitVec 4) (wd : Vector Byte 4)
    (p : Precision) (i c : Fin 4) :
    (cells.set k (programCorelet cells[k] rs wds wd p))[k][i][c] =
      if rs.getLsbD i ∧ wds.getLsbD c then ⟨p, wd[c]⟩ else cells[k][i][c] := by
  rw [corelet_set_self]
  simpa using programCorelet_getElem cells[k] rs wds wd p i c

/-- Settles O52: at most one bit of `RS` is not several rows, so the action programs its corelet. -/
theorem writeActionProgramsSelectedCells : Obligations.WriteActionProgramsSelectedCells := by
  intro k s hop hone
  have hrows : severalRows s.cim.rs = false := by
    refine Bool.eq_false_iff.2 fun h => ?_
    obtain ⟨i, j, hne, hi, hj⟩ := (severalRows_iff s.cim.rs).1 h
    exact hne (hone i j hi hj)
  exact ⟨_, doA_write hop hrows, cell_set_programCorelet _ k _ _ _ _, fun _ => corelet_set_of_ne _ _,
    ⟨rfl, rfl, rfl, rfl, rfl, rfl⟩, rfl, rfl, sameCpu_setCim s _⟩

/-- Settles O53: the three actions one after another; `DoR` is the only one that writes a register. -/
theorem readActionsSampleAndConvert : Obligations.ReadActionsSampleAndConvert := by
  intro k s hop hmode
  refine ⟨_, _, _, doA_forward hop hmode, rfl, rfl, fun c => ?_, rfl, rfl, ⟨rfl, rfl, rfl, rfl, rfl, rfl⟩,
    sameCpu_setCim s _, rfl, sameCpu_setCim s _, State.writeReg_cim .., State.writeReg_pc .., State.writeReg_mem ..,
    State.writeReg_params .., fun q => State.readReg_writeReg_eq_ite ..⟩
  exact (vec4_getElem _ c).trans (columnSum_eq_sum _ _ c)

/-! ### LOAD_WEIGHTS (R124) -/

/-- The state one row of LOAD_WEIGHTS leaves. -/
def rowLoaded (k : Fin 16) (m : Vector (Vector Byte 4) 4) (p : Precision) (r : Fin 4) (s : State) : State :=
  s.setCim { s.cim with
    rs := oneHot r, wd := m[r], wds := 0b1111#4, fs := { s.cim.fs with op := .write, precision := p }
    cells := s.cim.cells.set k (programCorelet s.cim.cells[k] (oneHot r) 0b1111#4 m[r] p) }

theorem loadRow_eq (k : Fin 16) (m : Vector (Vector Byte 4) 4) (p : Precision) (r : Fin 4) (s : State) :
    loadRow k m p r s = .next (rowLoaded k m p r s) := doA_write rfl (severalRows_oneHot r)

/-- The loaded row holds its elements and the other rows stay. -/
theorem rowLoaded_cell (k : Fin 16) (m : Vector (Vector Byte 4) 4) (p : Precision) (r : Fin 4) (s : State) (i c : Fin 4) :
    (rowLoaded k m p r s).cim.cells[k][i][c] = if i = r then ⟨p, m[i][c]⟩ else s.cim.cells[k][i][c] := by
  have hstrobed : (0b1111#4).getLsbD c = true := by revert c; decide
  refine (cell_set_programCorelet ..).trans ?_
  simp only [oneHot_getLsbD, hstrobed, and_true, decide_eq_true_eq]
  by_cases h : i = r
  · rw [if_pos h, if_pos h, h]
  · rw [if_neg h, if_neg h]

theorem rowLoaded_corelet_of_ne (m : Vector (Vector Byte 4) 4) (p : Precision) (r : Fin 4) (s : State) {k j : Fin 16}
    (h : j ≠ k) : (rowLoaded k m p r s).cim.cells[j] = s.cim.cells[j] := corelet_set_of_ne _ _ h

/-- LOAD_WEIGHTS loads the four rows in order. -/
theorem loadWeights_eq (k : Fin 16) (m : Vector (Vector Byte 4) 4) (p : Precision) (s : State) :
    loadWeights k m p s =
      .next (rowLoaded k m p 3 (rowLoaded k m p 2 (rowLoaded k m p 1 (rowLoaded k m p 0 s)))) := by
  simp only [loadWeights, forEach_cons, forEach_nil, loadRow_eq, andThen_next]

/-- Settles O55: each row is loaded in one round and the later rounds leave it. -/
theorem loadWeightsProgramsTheMatrix : Obligations.LoadWeightsProgramsTheMatrix := by
  intro k m p s
  refine ⟨_, loadWeights_eq k m p s, fun r c => ?_, fun j hj => ?_, rfl, rfl, rfl, rfl, rfl, rfl, rfl, rfl,
    ⟨rfl, fun _ => rfl, rfl, rfl⟩⟩
  · have hrow : r = 3 ∨ r = 2 ∨ r = 1 ∨ r = 0 := by omega
    simp only [rowLoaded_cell]
    rcases hrow with rfl | rfl | rfl | rfl <;> rfl
  · simp only [rowLoaded_corelet_of_ne m p _ _ hj]

/-! ### MVM (R126, R128) -/

theorem forEach_append {α σ : Type} (f : α → σ → Host.Outcome σ Fault Refusal) (xs ys : List α) (s : σ) :
    forEach f (xs ++ ys) s = andThen (forEach f xs s) (forEach f ys) := by
  induction xs generalizing s with
  | nil => rfl
  | cons x xs ih =>
    rw [List.cons_append, forEach_cons, forEach_cons]
    cases f x s with
    | next t => exact ih t
    | fault e => rfl
    | refused e => rfl

/-- What MVM through register `r` leaves as it is once `SAM` is written. -/
structure MvmKeeps (r : Reg) (s t : State) : Prop where
  cells : t.cim.cells = s.cim.cells
  sam : t.cim.sam = s.cim.sam
  pc : t.pc = s.pc
  mem : t.mem = s.mem
  params : t.params = s.params
  regs : ∀ q, q ≠ r → t.readReg q = s.readReg q

theorem MvmKeeps.refl (r : Reg) (s : State) : MvmKeeps r s s := ⟨rfl, rfl, rfl, rfl, rfl, fun _ _ => rfl⟩

theorem MvmKeeps.trans {r : Reg} {s t u : State} (hst : MvmKeeps r s t) (htu : MvmKeeps r t u) : MvmKeeps r s u where
  cells := htu.cells.trans hst.cells
  sam := htu.sam.trans hst.sam
  pc := htu.pc.trans hst.pc
  mem := htu.mem.trans hst.mem
  params := htu.params.trans hst.params
  regs q hq := (htu.regs q hq).trans (hst.regs q hq)

/-- Another CIM unit with the same cells and `SAM` keeps them, and the CPU. -/
theorem mvmKeeps_setCim (r : Reg) {s : State} {c : CimState} (hcells : c.cells = s.cim.cells) (hsam : c.sam = s.cim.sam) :
    MvmKeeps r s (s.setCim c) := ⟨hcells, hsam, rfl, rfl, rfl, fun _ _ => rfl⟩

theorem mvmKeeps_writeReg (r : Reg) (s : State) (v : Word) : MvmKeeps r s (s.writeReg r v) where
  cells := by rw [State.writeReg_cim]
  sam := by rw [State.writeReg_cim]
  pc := State.writeReg_pc s r v
  mem := State.writeReg_mem s r v
  params := State.writeReg_params s r v
  regs _ hq := State.readReg_writeReg_of_ne s v hq

/-- What register `r` reads when `v` is delivered through it (R12). -/
def delivered (r : Reg) (v : Word) : Word := if r = 0 then 0 else v

theorem readReg_writeReg_eq_delivered (s : State) (r : Reg) (v : Word) : (s.writeReg r v).readReg r = delivered r v := by
  by_cases h : r = 0
  · subst h; rfl
  · rw [State.readReg_writeReg_self s v h, delivered, if_neg h]

/-- `CS` names the column written to it. -/
theorem cimWriteCs_column (c : Fin 4) : (BitVec.ofNat 2 c).toNat = c := by
  rw [BitVec.toNat_ofNat]; exact Nat.mod_eq_of_lt c.isLt

/-- The state a round of MVM leaves before its columns are converted: the column sums over the selected rows are driven and
captured. -/
def rowsSampled (k : Fin 16) (rows : BitVec 4) (s : State) : State :=
  s.setCim { s.cim with
    rs := rows, fs := { s.cim.fs with op := .read, mode := .forward }
    columns := vec4 (columnSum s.cim.cells[k] rows), hold := vec4 (columnSum s.cim.cells[k] rows) }

theorem rowsSampled_hold (k : Fin 16) (rows : BitVec 4) (s : State) (c : Fin 4) :
    (rowsSampled k rows s).cim.hold[c] = columnSum s.cim.cells[k] rows c := vec4_getElem _ c

theorem mvmRound_eq (adc : Precision → Int → Word) (k : Fin 16) (input : Vector Byte 4) (r : Reg) (b : Nat)
    (x : MvmState) : mvmRound adc k input r b x =
      forEach (mvmColumn adc r b) [0, 1, 2, 3] (rowsSampled k (rowBits input b) x.1, x.2) := by
  rw [mvmRound, doA_forward rfl rfl, andThen_next, doS, andThen_next]
  rfl

section Columns
variable (adc : Precision → Int → Word) {r : Reg} (b : Nat)

/-- One column of a round: the conversion of the captured value is added, shifted, to the column's accumulator. -/
theorem mvmColumn_next (c : Fin 4) {x : MvmState} (hr : x.1.cim.sam.resultReg = r) :
    ∃ t, mvmColumn adc r b c x =
        .next (t, x.2.set c (x.2[c] + delivered r (adc x.1.cim.sam.precision x.1.cim.hold[c]) <<< b))
      ∧ MvmKeeps r x.1 t ∧ t.cim.hold = x.1.cim.hold := by
  obtain ⟨s, acc⟩ := x
  subst hr
  have hcs : MvmKeeps s.cim.sam.resultReg s (cimWriteCs (BitVec.ofNat 2 c) s) := mvmKeeps_setCim _ rfl rfl
  refine ⟨_, ?_, hcs.trans (mvmKeeps_writeReg _ _ (adc s.cim.sam.precision s.cim.hold[c])), ?_⟩
  · rw [← readReg_writeReg_eq_delivered (cimWriteCs (BitVec.ofNat 2 c) s)]
    simp only [mvmColumn, doRWith, andThen_next, cimWriteCs, State.setCim_cim, cimWriteCs_column, Fin.getElem_fin]
  · rw [State.writeReg_cim, cimWriteCs, State.setCim_cim]

/-- The columns of a round: each listed one is added to its accumulator once. -/
theorem forEach_mvmColumn_next {cs : List (Fin 4)} (hcs : cs.Nodup) {x : MvmState} (hr : x.1.cim.sam.resultReg = r) :
    ∃ y, forEach (mvmColumn adc r b) cs x = .next y ∧ MvmKeeps r x.1 y.1
      ∧ ∀ c : Fin 4, y.2[c] =
        if c ∈ cs then x.2[c] + delivered r (adc x.1.cim.sam.precision x.1.cim.hold[c]) <<< b else x.2[c] := by
  induction cs generalizing x with
  | nil => exact ⟨x, rfl, .refl r x.1, fun c => (if_neg List.not_mem_nil).symm⟩
  | cons d cs ih =>
    obtain ⟨hd, hcs⟩ := List.nodup_cons.1 hcs
    obtain ⟨t, ht, hkeeps, hhold⟩ := mvmColumn_next adc b d hr
    obtain ⟨y, hy, hkeeps', hacc⟩ := ih hcs (x := (t, _)) (by rw [hkeeps.sam, hr])
    refine ⟨y, by rw [forEach_cons, ht, andThen_next, hy], hkeeps.trans hkeeps', fun c => ?_⟩
    rw [hacc c, hkeeps.sam, hhold]
    by_cases hc : c = d
    · subst hc; simp [hd]
    · have hne : d.val ≠ c.val := fun e => hc (Fin.ext e.symm)
      simp [hc, hne]

/-- One round: every accumulator takes its column's converted sum over the rows whose input has bit `b`, shifted by `b`. -/
theorem mvmRound_next (k : Fin 16) (input : Vector Byte 4) {x : MvmState} (hr : x.1.cim.sam.resultReg = r) :
    ∃ y, mvmRound adc k input r b x = .next y ∧ MvmKeeps r x.1 y.1
      ∧ ∀ c : Fin 4, y.2[c] = x.2[c]
        + delivered r (adc x.1.cim.sam.precision (columnSum x.1.cim.cells[k] (rowBits input b) c)) <<< b := by
  have hsampled : MvmKeeps r x.1 (rowsSampled k (rowBits input b) x.1) := mvmKeeps_setCim r rfl rfl
  have hall : ∀ c : Fin 4, c ∈ ([0, 1, 2, 3] : List (Fin 4)) := by decide
  obtain ⟨y, hy, hkeeps, hacc⟩ := forEach_mvmColumn_next adc b (cs := [0, 1, 2, 3]) (by decide)
    (x := (rowsSampled k (rowBits input b) x.1, x.2)) (by rw [hsampled.sam, hr])
  refine ⟨y, (mvmRound_eq adc k input r b x).trans hy, hsampled.trans hkeeps, fun c => ?_⟩
  rw [hacc c, if_pos (hall c), rowsSampled_hold, hsampled.sam]

end Columns

/-- The product of column `c` with the low `n` bits of every input element. -/
def partialProduct (k : Corelet) (input : Vector Byte 4) (n : Nat) (c : Fin 4) : Int :=
  ∑ i : Fin 4, ((input[i].toNat % 2 ^ n : Nat) : Int) * k[i][c].weight

/-- Bit `n` of every input element adds its driven rows, `2^n` times. -/
theorem partialProduct_succ (k : Corelet) (input : Vector Byte 4) (n : Nat) (c : Fin 4) :
    partialProduct k input (n + 1) c = partialProduct k input n c + columnSum k (rowBits input n) c * 2 ^ n := by
  rw [partialProduct, partialProduct, columnSum_eq_sum, Finset.sum_mul, ← Finset.sum_add_distrib]
  refine Finset.sum_congr rfl fun i _ => ?_
  rw [Nat.mod_pow_succ, ← Nat.toNat_testBit, rowBits_getLsbD, BitVec.testBit_toNat]
  cases (input[i] : Byte).getLsbD n with
  | false => simp
  | true => simp [add_mul, mul_comm]

theorem partialProduct_eq_product (k : Corelet) {input : Vector Byte 4} {n : Nat}
    (h : ∀ i : Fin 4, input[i].toNat < 2 ^ n) (c : Fin 4) :
    partialProduct k input n c = ∑ i : Fin 4, (input[i].toNat : Int) * k[i][c].weight :=
  Finset.sum_congr rfl fun i _ => by rw [Nat.mod_eq_of_lt (h i)]

/-- A shift left is a product with a power of two, modulo `2^32`. -/
theorem ofInt_shiftLeft (x : Int) (n : Nat) : BitVec.ofInt 32 x <<< n = BitVec.ofInt 32 (x * 2 ^ n) := by
  have hpow : BitVec.twoPow 32 n = BitVec.ofInt 32 (2 ^ n) := by
    refine BitVec.eq_of_toNat_eq ?_
    rw [BitVec.toNat_twoPow, BitVec.toNat_ofInt]
    norm_cast
  rw [BitVec.shiftLeft_eq_mul_twoPow, hpow, BitVec.ofInt_mul]

/-- An exact delivery accumulates as integers do. -/
theorem delivered_add_exact (r : Reg) (p : Precision) (x y : Int) (n : Nat) :
    delivered r (BitVec.ofInt 32 x) + delivered r (exactAdc p y) <<< n = delivered r (BitVec.ofInt 32 (x + y * 2 ^ n)) := by
  by_cases h : r = 0
  · simp [delivered, h]
  · simp only [delivered, if_neg h, exactAdc, ofInt_shiftLeft, BitVec.ofInt_add]

/-- After `n` rounds with an exact converter the accumulators hold the product with the low `n` bits of the inputs. -/
theorem forEach_mvmRound_exact (k : Fin 16) (input : Vector Byte 4) {r : Reg} {s : State}
    (hr : s.cim.sam.resultReg = r) (n : Nat) :
    ∃ y, forEach (mvmRound exactAdc k input r) (List.range n) (s, Vector.replicate 4 0) = .next y ∧ MvmKeeps r s y.1
      ∧ ∀ c : Fin 4, y.2[c] = delivered r (BitVec.ofInt 32 (partialProduct s.cim.cells[k] input n c)) := by
  induction n with
  | zero =>
    refine ⟨_, rfl, .refl r s, fun c => ?_⟩
    simp [partialProduct, delivered, Nat.mod_one]
  | succ n ih =>
    obtain ⟨x, hx, hkeeps, hacc⟩ := ih
    obtain ⟨y, hy, hkeeps', hacc'⟩ := mvmRound_next exactAdc n k input (x := x) (by rw [hkeeps.sam, hr])
    refine ⟨y, ?_, hkeeps.trans hkeeps', fun c => ?_⟩
    · rw [List.range_succ, forEach_append, hx, andThen_next, forEach_cons, hy, andThen_next, forEach_nil]
    · rw [hacc' c, hacc c, hkeeps.cells, delivered_add_exact, partialProduct_succ]

/-- Settles O56: after as many rounds as the precision has bits, the low bits of the inputs are the inputs. -/
theorem mvmWithExactConverterIsTheProduct : Obligations.MvmWithExactConverterIsTheProduct := by
  intro k input p r s hinput
  obtain ⟨⟨t, acc⟩, hrun, hkeeps, hacc⟩ :=
    forEach_mvmRound_exact k input (s := cimWriteSam r p s) rfl (precisionBits p)
  refine ⟨t, acc, hrun, fun c => ?_, hkeeps.cells, hkeeps.pc, hkeeps.mem, hkeeps.params, hkeeps.regs⟩
  rw [hacc c, partialProduct_eq_product _ hinput]
  rfl

end Sys2Proof.Proofs
end

section
/-! PROOFS. Compressed Quadrant 0 with the other compressed loads, stores and immediates (41_c_quadrant0.md,
42_c_quadrant1.md, 43_c_quadrant2.md): reserved words, what `load` and `store` leave, offsets as numbers, scattered
immediates. -/
namespace Sys2Proof.Proofs
open Sys2Proof.Machine Sys2Proof.Claims

/-- The word of a well-formed instruction, however it is written, decodes to the instruction. -/
theorem decode_eq_of_encode_eq {i : Instr} {w : InstWord} (hw : encode i = w) (hwf : i.WellFormed = true) :
    decode w = .ok i := hw ▸ decodeOfEncode i hwf

/-! ### Reserved words (R150, R151, R155) -/

theorem info_half (w : BitVec 16) : (InstWord.half w).info = BitVec.ofNat 32 w.toNat := (BitVec.ofNat_toNat 32 w).symm

/-- The word of an illegal row is reserved. -/
theorem reservedWord_of_encode_eq {i : Instr} {w : BitVec 16} (hw : encode i = .half w) (hwf : i.WellFormed = true)
    (hkind : i.kind = .illegal) : ReservedWord w i := by
  refine ⟨decode_eq_of_encode_eq hw hwf, fun s => ?_⟩
  rw [Traps, exec_of_kind_illegal hkind, hw, ← info_half]
  rfl

/-- Settles O8: the rows are illegal, and the words are those they encode to. -/
theorem quadrant0ReservedWordsTrap : Obligations.Quadrant0ReservedWordsTrap := by
  refine ⟨?_, fun rd hrd => ?addi4spn, fun bits => ⟨?_, ?_, ?_, ?_, ?_⟩⟩
  case addi4spn => exact reservedWord_of_encode_eq rfl (bne_iff_ne.2 hrd) rfl
  all_goals exact reservedWord_of_encode_eq rfl rfl rfl

/-! ### What a load and a store leave (R44, R45, R259, R260) -/

/-- `load` by the outcomes of `MemRead`. -/
theorem loadOutcome_load (n : Width) (ext : n.Value → Word) (rd : Reg) (a len : Word) (s : State) :
    LoadOutcome (load n ext rd a len s) s n.bytes a rd (ext (BitVec.ofNat (8 * n.bytes) (bytesValue s a n.bytes)))
      len := by
  rw [LoadOutcome]
  split
  · exact load_misaligned_iff.2 ‹_›
  · next ha =>
    split
    · next hv =>
      rw [load, memRead_of_valid (not_not.1 ha) hv]
      exact completes_finish s rd _ len
    · next hv =>
      rw [load, memRead_of_invalid (not_not.1 ha) hv]
      rfl

/-- `store` by the outcomes of `MemWrite`, for any `x` that has the bytes of the value stored. -/
theorem storeOutcome_store {n : Width} {v : n.Value} {x : Word} (a len : Word) (s : State)
    (hx : ∀ k, k < n.bytes → BitVec.ofNat 8 (v.toNat / 256 ^ k) = BitVec.ofNat 8 (x.toNat / 256 ^ k)) :
    StoreOutcome (store n a v len s) s n.bytes a x len := by
  rw [StoreOutcome]
  split
  · exact store_misaligned_iff.2 ‹_›
  · next ha =>
    split
    · next hv =>
      split
      · next hc =>
        rw [store, memWrite_of_outsideCode (not_not.1 ha) hv hc]
        exact ⟨(stored s n a v).advance len, rfl, rfl, fun _ => rfl,
          fun k hk => (readByte_stored s a v hk).trans (hx k hk), fun _ => readByte_stored_of_ne s v, rfl, rfl⟩
      · next hc => rw [store, memWrite_of_inCode (not_not.1 ha) hv hc, andThen_refused]
    · next hv =>
      rw [store, memWrite_of_invalid (not_not.1 ha) hv]
      rfl

/-! ### Sums and immediates as numbers (R18, R75 to R84) -/

theorem plus_eq_add (a : Word) (k : Int) : plus a k = a + BitVec.ofInt 32 k := by
  rw [plus, BitVec.ofInt_add, BitVec.ofInt_natCast, BitVec.ofNat_toNat, BitVec.setWidth_eq]

/-- A field in front of two zero bits, zero-extended, is four times the field (R75, R79, R83, R84). -/
theorem zeroExtend_append_two_zeros {k : Nat} (u : BitVec k) :
    (u ++ 0#2).zeroExtend 32 = BitVec.ofInt 32 (4 * u.toNat) := by
  have hvalue : (u ++ 0#2).toNat = 4 * u.toNat := by
    rw [BitVec.toNat_append, BitVec.toNat_zero, Nat.or_zero, Nat.shiftLeft_eq, Nat.mul_comm]
  rw [BitVec.zeroExtend_eq_setWidth, ← BitVec.ofNat_toNat, hvalue, ← BitVec.ofInt_natCast]
  rfl

/-- A field in front of `n` zero bits, sign-extended, is `2 ^ n` times the signed field (R77, R78). -/
theorem signExtend_append_zeros {k : Nat} (imm : BitVec k) (n : Nat) :
    (imm ++ 0#n).signExtend 32 = BitVec.ofInt 32 (2 ^ n * imm.toInt) :=
  congrArg (BitVec.ofInt 32) BitVec.toInt_append_zero

theorem clAddr_eq_plus (s : State) (rs1 : CReg) (u : BitVec 5) :
    clAddr s rs1 u = plus (s.readReg (creg rs1)) (4 * u.toNat) := by
  rw [clAddr, offCl, zeroExtend_append_two_zeros, plus_eq_add]

theorem spAddr_eq_plus (s : State) (u : BitVec 6) : spAddr s u = plus (s.readReg 2) (4 * u.toNat) := by
  rw [spAddr, offSp, zeroExtend_append_two_zeros, plus_eq_add]
  rfl

/-! ### Words written by the labels of their immediates (R72, R75 to R84) -/

theorem wordCL_eq_encCl (f3 : BitVec 3) (u : BitVec 5) (rs1 r : CReg) :
    wordCL f3 (u ++ 0b00#2) rs1 r = .half (encCl f3 u rs1 r) := by
  simp (disch := decide) only [wordCL, encCl, extract_append_high]

theorem encode_cLwsp (rd : Reg) (u : BitVec 6) :
    let off : BitVec 8 := u ++ 0b00#2
    encode (.cLwsp rd u)
      = wordCI 0b010 (off.extractLsb' 5 1) (r5 rd) (off.extractLsb' 2 3 ++ off.extractLsb' 6 2) 0b10 := by
  simp (disch := decide) only [encode, encCi, reg5, wordCI, r5, extract_append_high, Nat.reduceSub,
    BitVec.ofNat_eq_ofNat]

theorem encode_cSwsp (rs2 : Reg) (u : BitVec 6) :
    let off : BitVec 8 := u ++ 0b00#2
    encode (.cSwsp rs2 u) = .half (0b110#3 ++ off.extractLsb' 2 4 ++ off.extractLsb' 6 2 ++ r5 rs2 ++ 0b10#2) := by
  simp (disch := decide) only [encode, encCss, reg5, r5, extract_append_high]

theorem encode_cAddi4spn (rd : CReg) (u : BitVec 8) :
    let nzu : BitVec 10 := u ++ 0b00#2
    encode (.cAddi4spn rd u) = .half (0b000#3 ++ nzu.extractLsb' 4 2 ++ nzu.extractLsb' 6 4 ++ nzu.extractLsb' 2 1
      ++ nzu.extractLsb' 3 1 ++ rd ++ 0b00#2) := by
  refine congrArg InstWord.half (encCiw_eq_iff.2 ?_)
  simp (disch := decide) only [fieldCiw, append_eq_iff, extract_extract, extract_append_low, extract_append_high,
    Nat.reduceSub, extract_all, and_self]

theorem encode_cAddi16sp (imm : BitVec 6) :
    let nz10 : BitVec 10 := imm ++ 0b0000#4
    encode (.cAddi16sp imm) = wordCI 0b011 (nz10.extractLsb' 9 1) 0b00010 (nz10.extractLsb' 4 1 ++ nz10.extractLsb' 6 1
      ++ nz10.extractLsb' 7 2 ++ nz10.extractLsb' 5 1) 0b01 := by
  simp (disch := decide) only [encode, encCi, fieldCi16, wordCI, extract_append_high, Nat.reduceSub,
    BitVec.ofNat_eq_ofNat]

/-! ### Loads and stores (R153, R154, R203, R213) -/

/-- A word load that extends nothing leaves the four bytes as a number. -/
theorem loadOutcome_word (rd : Reg) (a len : Word) (s : State) :
    LoadOutcome (load .word (fun v => v) rd a len s) s 4 a rd (BitVec.ofNat 32 (bytesValue s a 4)) len :=
  loadOutcome_load .word (fun v => v) rd a len s

theorem storeOutcome_word (a v len : Word) (s : State) : StoreOutcome (store .word a v len s) s 4 a v len :=
  storeOutcome_store (n := .word) a len s fun _ _ => rfl

/-- Settles O38: both instructions are a word load at their address. -/
theorem compressedLoadResults : Obligations.CompressedLoadResults := by
  refine fun s => ⟨fun rd rs1 u => ⟨clAddr_eq_plus s rs1 u, ?_, loadOutcome_word (creg rd) _ 2 s⟩,
    fun rd u => ⟨spAddr_eq_plus s u, fun hrd => ?_, loadOutcome_word rd _ 2 s⟩⟩
  · exact decode_eq_of_encode_eq (wordCL_eq_encCl 0b010 u rs1 rd).symm rfl
  · exact decode_eq_of_encode_eq (encode_cLwsp rd u) (bne_iff_ne.2 hrd)

/-- Settles O39: both instructions are a word store at their address. -/
theorem compressedStoreResults : Obligations.CompressedStoreResults := by
  refine fun s => ⟨fun rs2 rs1 u => ⟨clAddr_eq_plus s rs1 u, ?_, storeOutcome_word _ _ 2 s⟩,
    fun rs2 u => ⟨spAddr_eq_plus s u, ?_, storeOutcome_word _ _ 2 s⟩⟩
  · exact decode_eq_of_encode_eq (wordCL_eq_encCl 0b110 u rs1 rs2).symm rfl
  · exact decode_eq_of_encode_eq (encode_cSwsp rs2 u) rfl

/-! ### Immediates (R152, R171, R173, R175, R177) -/

/-- `x[rd] <- v; pc <- pc + len` with the value given in another form. -/
theorem completes_finish_of_eq {v v' : Word} (s : State) (rd : Reg) (len : Word) (h : v = v') :
    Completes (finish rd v len s) s (withReg s rd v') (s.pc + len) := h ▸ completes_finish s rd v len

theorem completes_cAddi4spn (s : State) (rd : CReg) (u : BitVec 8) :
    Completes (exec (.cAddi4spn rd u) s) s (withReg s (creg rd) (plus (s.readReg 2) (4 * u.toNat))) (s.pc + 2) := by
  refine completes_finish_of_eq s (creg rd) 2 ?_
  rw [immCAddi4spn, zeroExtend_append_two_zeros, plus_eq_add]
  rfl

theorem completes_cAddi (s : State) (rd : Reg) (imm : BitVec 6) :
    Completes (exec (.cAddi rd imm) s) s (withReg s rd (plus (s.readReg rd) imm.toInt)) (s.pc + 2) := by
  refine completes_finish_of_eq s rd 2 ?_
  rw [immC, BitVec.signExtend, plus_eq_add]

theorem completes_cLi (s : State) (rd : Reg) (imm : BitVec 6) :
    Completes (exec (.cLi rd imm) s) s (withReg s rd (sext imm)) (s.pc + 2) :=
  completes_finish s rd (sext imm) 2

theorem completes_cAddi16sp (s : State) (imm : BitVec 6) :
    Completes (exec (.cAddi16sp imm) s) s (withReg s 2 (plus (s.readReg 2) (16 * imm.toInt))) (s.pc + 2) := by
  refine completes_finish_of_eq s 2 2 ?_
  rw [immCAddi16sp, signExtend_append_zeros, plus_eq_add]
  rfl

theorem completes_cLui (s : State) (rd : Reg) (imm : BitVec 6) :
    Completes (exec (.cLui rd imm) s) s (withReg s rd (BitVec.ofInt 32 (4096 * imm.toInt))) (s.pc + 2) :=
  completes_finish_of_eq s rd 2 (signExtend_append_zeros imm 12)

theorem wellFormed_cLui {rd : Reg} {imm : BitVec 6} (h0 : rd ≠ 0) (h2 : rd ≠ 2) (himm : imm ≠ 0) :
    (Instr.cLui rd imm).WellFormed = true :=
  Bool.and_eq_true_iff.2 ⟨Bool.and_eq_true_iff.2 ⟨bne_iff_ne.2 h0, bne_iff_ne.2 h2⟩, bne_iff_ne.2 himm⟩

/-- Settles O45: each word is the instruction's (O1), and each instruction finishes with the value its rule gives. -/
theorem compressedImmediateResults : Obligations.CompressedImmediateResults := fun s rd' u rd imm =>
  ⟨⟨fun hu => decode_eq_of_encode_eq (encode_cAddi4spn rd' u) (bne_iff_ne.2 hu), completes_cAddi4spn s rd' u⟩,
    ⟨fun hrd => decodeOfEncode (.cAddi rd imm) (bne_iff_ne.2 hrd), completes_cAddi s rd imm⟩,
    ⟨fun hrd => decodeOfEncode (.cLi rd imm) (bne_iff_ne.2 hrd), completes_cLi s rd imm⟩,
    ⟨fun himm => decode_eq_of_encode_eq (encode_cAddi16sp imm) (bne_iff_ne.2 himm), completes_cAddi16sp s imm⟩,
    fun h0 h2 himm => decodeOfEncode (.cLui rd imm) (wellFormed_cLui h0 h2 himm), completes_cLui s rd imm⟩

end Sys2Proof.Proofs
end

section
/-! PROOFS. Compressed Quadrant 1 with the shifts, register operations and jumps of Quadrant 2 (42_c_quadrant1.md,
43_c_quadrant2.md): reserved words, shifts and differences as arithmetic, what a jump and a branch leave, the formats CA, CJ
and CB. -/
namespace Sys2Proof.Proofs
open Sys2Proof.Machine Sys2Proof.Claims

/-! ### Reserved and example words (R176, R178, R182, R188) -/

/-- Settles O9: the rows are illegal, and the words are those they encode to. -/
theorem quadrant1ReservedWordsTrap : Obligations.Quadrant1ReservedWordsTrap := by
  refine ⟨?_, fun rd hrd => ?lui, fun rd shamt => ⟨?_, ?_, ?_, ?_⟩, fun bits => ?_⟩
  case lui => exact reservedWord_of_encode_eq rfl (bne_iff_ne.2 hrd) rfl
  all_goals exact reservedWord_of_encode_eq rfl rfl rfl

/-- Settles O4: each instruction is well-formed and encodes to the word beside it. -/
theorem exampleWordsDecode : Obligations.ExampleWordsDecode := by
  refine ⟨?_, ?_, ?_, ?_, ?_, ?_, ?_, ?_, ?_, ?_, ?_, ?_⟩
  all_goals exact decode_eq_of_encode_eq rfl rfl

/-! ### Shifts (R6, R180, R181, R200) -/

theorem sllW_eq_shiftedLeft (v : Word) (k : BitVec 5) : sllW v k = shiftedLeft v k.toNat :=
  congrArg (BitVec.ofNat 32) (Nat.shiftLeft_eq v.toNat k.toNat)

theorem srlW_eq_shiftedRight (v : Word) (k : BitVec 5) : srlW v k = shiftedRight v k.toNat := by
  rw [shiftedRight, ← Nat.shiftRight_eq_div_pow, ← BitVec.toNat_ushiftRight, BitVec.ofNat_toNat, BitVec.setWidth_eq,
    srlW]

theorem sraW_eq_shiftedRightSigned (v : Word) (k : BitVec 5) : sraW v k = shiftedRightSigned v k.toNat :=
  congrArg (BitVec.ofInt 32) (Int.shiftRight_eq_div_pow v.toInt k.toNat)

theorem completes_cSrli (s : State) (rd : CReg) (shamt : BitVec 5) :
    Completes (exec (.cSrli rd shamt) s) s (withReg s (creg rd) (shiftedRight (s.readReg (creg rd)) shamt.toNat))
      (s.pc + 2) :=
  completes_finish_of_eq s (creg rd) 2 (srlW_eq_shiftedRight _ shamt)

theorem completes_cSrai (s : State) (rd : CReg) (shamt : BitVec 5) :
    Completes (exec (.cSrai rd shamt) s) s
      (withReg s (creg rd) (shiftedRightSigned (s.readReg (creg rd)) shamt.toNat)) (s.pc + 2) :=
  completes_finish_of_eq s (creg rd) 2 (sraW_eq_shiftedRightSigned _ shamt)

theorem completes_cSlli (s : State) (rd : Reg) (shamt : BitVec 5) :
    Completes (exec (.cSlli rd shamt) s) s (withReg s rd (shiftedLeft (s.readReg rd) shamt.toNat)) (s.pc + 2) :=
  completes_finish_of_eq s rd 2 (sllW_eq_shiftedLeft _ shamt)

/-- The restriction on the operands of C.SLLI, C.MV and C.ADD. -/
theorem bne_zero_and_bne_zero {m n : Nat} {x : BitVec m} {y : BitVec n} (hx : x ≠ 0) (hy : y ≠ 0) :
    (x != 0 && y != 0) = true :=
  Bool.and_eq_true_iff.2 ⟨bne_iff_ne.2 hx, bne_iff_ne.2 hy⟩

/-- Settles O46: each word is the instruction's (O1), and each shift is the arithmetic of R6. -/
theorem compressedShiftResults : Obligations.CompressedShiftResults := fun s rd' rd shamt =>
  ⟨⟨fun h => decodeOfEncode (.cSrli rd' shamt) (bne_iff_ne.2 h), completes_cSrli s rd' shamt⟩,
    ⟨fun h => decodeOfEncode (.cSrai rd' shamt) (bne_iff_ne.2 h), completes_cSrai s rd' shamt⟩,
    fun hrd h => decodeOfEncode (.cSlli rd shamt) (bne_zero_and_bne_zero hrd h), completes_cSlli s rd shamt⟩

/-! ### Register operations (R183 to R187, R207, R211) -/

theorem bitwiseOf_and (a b : Word) : BitwiseOf and a b (a &&& b) := fun _ _ => BitVec.getLsbD_and

theorem bitwiseOf_or (a b : Word) : BitwiseOf or a b (a ||| b) := fun _ _ => BitVec.getLsbD_or

theorem bitwiseOf_xor (a b : Word) : BitwiseOf xor a b (a ^^^ b) := fun _ _ => BitVec.getLsbD_xor

theorem add_eq_ofNat (a b : Word) : a + b = BitVec.ofNat 32 (a.toNat + b.toNat) := rfl

theorem sub_eq_ofInt (a b : Word) : a - b = BitVec.ofInt 32 (a.toNat - b.toNat : Int) := by
  have hneg : BitVec.ofInt 32 (-b.toNat) = -b := by
    rw [BitVec.ofInt_neg, BitVec.ofInt_natCast, BitVec.ofNat_toNat, BitVec.setWidth_eq]
  rw [Int.sub_eq_add_neg, ← plus, plus_eq_add, hneg, BitVec.sub_eq_add_neg]

/-- Format CA is format CB with `inst[12] = 0` and `inst[11:10] = 11`, and with the function code in front of `rs2'`. -/
theorem encCa_eq_encCb {sel : BitVec 2} {rs2 : CReg} {lo : BitVec 5} (rd : CReg) (hlo : sel ++ rs2 = lo) :
    encCa sel rd rs2 = encCb 0b0#1 0b11#2 rd lo := by
  obtain ⟨hsel, hrs2⟩ := append_eq_iff.1 hlo
  refine encCa_eq_iff.2 ?_
  simp (disch := decide) only [encCb, hsel, hrs2, extract_append_low, extract_append_high, Nat.reduceSub, extract_all,
    and_self]

theorem decode_of_encode_eq_encCa {i : Instr} {sel : BitVec 2} {rd rs2 : CReg}
    (hi : encode i = .half (encCa sel rd rs2)) (hwf : i.WellFormed = true) :
    decode (wordCB 0b0 0b11 rd (sel ++ rs2)) = .ok i :=
  decode_eq_of_encode_eq (hi.trans (congrArg InstWord.half (encCa_eq_encCb rd rfl))) hwf

theorem completes_cSub (s : State) (rd rs2 : CReg) :
    Completes (exec (.cSub rd rs2) s) s
      (withReg s (creg rd)
        (BitVec.ofInt 32 ((s.readReg (creg rd)).toNat - (s.readReg (creg rs2)).toNat : Int))) (s.pc + 2) :=
  completes_finish_of_eq s (creg rd) 2 (sub_eq_ofInt _ _)

theorem completes_cAdd (s : State) (rd rs2 : Reg) :
    Completes (exec (.cAdd rd rs2) s) s
      (withReg s rd (BitVec.ofNat 32 ((s.readReg rd).toNat + (s.readReg rs2).toNat))) (s.pc + 2) :=
  completes_finish_of_eq s rd 2 (add_eq_ofNat _ _)

/-- Settles O47: each word is the instruction's, and each instruction finishes with the value its rule gives. -/
theorem compressedRegisterResults : Obligations.CompressedRegisterResults := by
  intro s rd' rs2' imm rd rs2 a b
  have hdone (v : Word) : Completes (finish (creg rd') v 2 s) s (withReg s (creg rd') v) (s.pc + 2) :=
    completes_finish s (creg rd') v 2
  refine ⟨⟨decodeOfEncode (.cAndi rd' imm) rfl, a &&& sext imm, bitwiseOf_and a _, hdone _⟩,
    ⟨decode_of_encode_eq_encCa rfl rfl, completes_cSub s rd' rs2'⟩,
    ⟨decode_of_encode_eq_encCa rfl rfl, a ^^^ b, bitwiseOf_xor a b, hdone _⟩,
    ⟨decode_of_encode_eq_encCa rfl rfl, a ||| b, bitwiseOf_or a b, hdone _⟩,
    ⟨decode_of_encode_eq_encCa rfl rfl, a &&& b, bitwiseOf_and a b, hdone _⟩,
    ⟨fun hrd hrs2 => ?_, completes_finish s rd _ 2⟩, fun hrd hrs2 => ?_, completes_cAdd s rd rs2⟩
  · exact decodeOfEncode (.cMv rd rs2) (bne_zero_and_bne_zero hrd hrs2)
  · exact decodeOfEncode (.cAdd rd rs2) (bne_zero_and_bne_zero hrd hrs2)

/-! ### Jumps (R172, R189, R205, R210) -/

theorem completes_jump (s : State) (target : Word) : Completes (jump target s) s s.readReg target :=
  ⟨s.setPc target, rfl, rfl, fun _ => rfl, fun _ => rfl, rfl, rfl, rfl⟩

theorem completes_jumpLink (s : State) (rd : Reg) (link target : Word) :
    Completes (jumpLink rd link target s) s (withReg s rd link) target :=
  ⟨(s.writeReg rd link).setPc target, rfl, rfl, fun q => State.readReg_writeReg_eq_ite s rd q link,
    fun a => State.readByte_writeReg s rd link a, State.writeReg_mem s rd link, State.writeReg_cim s rd link,
    State.writeReg_params s rd link⟩

/-- A jump offset, whose label is twice the field's value (R80, R81). -/
theorem add_signExtend_append_zero {k : Nat} (pc : Word) (imm : BitVec k) :
    pc + (imm ++ 0#1).signExtend 32 = plus pc (2 * imm.toInt) := by
  rw [signExtend_append_zeros, plus_eq_add, pow_one]

/-- Clearing bit 0 rounds down to an even number (R205, R210). -/
theorem evenTarget_eq_div_mul (v : Word) : evenTarget v = BitVec.ofNat 32 (v.toNat / 2 * 2) := by
  have hmask : 0xFFFFFFFE#32 = BitVec.allOnes 32 <<< 1 := by decide
  calc evenTarget v
      = v >>> 1 <<< 1 := by rw [evenTarget, hmask, BitVec.shiftLeft_ushiftRight]
    _ = shiftedLeft (v >>> 1) 1 := sllW_eq_shiftedLeft (v >>> 1) 1
    _ = BitVec.ofNat 32 (v.toNat / 2 * 2) := by
      rw [shiftedLeft, BitVec.toNat_ushiftRight, Nat.shiftRight_eq_div_pow, Nat.pow_one]

theorem encSlot_fieldCj_eq_wordCJ (f3 : BitVec 3) (imm : BitVec 11) :
    InstWord.half (encSlot f3 (fieldCj imm) 0b01#2) = wordCJ f3 (imm ++ 0b0#1) := by
  refine congrArg InstWord.half (encSlot_eq_iff.2 ?_)
  simp (disch := decide) only [fieldCj, append_eq_iff, extract_extract, extract_append_low, extract_append_high,
    Nat.reduceSub, extract_all, and_self]

/-- Settles O48: a jump leaves its target, and a link goes to `x1` after the operand is read. -/
theorem compressedJumpResults : Obligations.CompressedJumpResults := by
  intro s off rs1 target
  have hoff : s.pc + offCj off = plus s.pc (2 * off.toInt) := add_signExtend_append_zero s.pc off
  have htarget : evenTarget (s.readReg rs1) = target := evenTarget_eq_div_mul (s.readReg rs1)
  rw [← hoff, ← htarget]
  refine ⟨⟨?_, completes_jumpLink s 1 (s.pc + 2) _⟩, ⟨?_, completes_jump s _⟩, ⟨fun h => ?_, completes_jump s _⟩,
    fun h => ?_, completes_jumpLink s 1 (s.pc + 2) _⟩
  · exact decode_eq_of_encode_eq (encSlot_fieldCj_eq_wordCJ 0b001 off) rfl
  · exact decode_eq_of_encode_eq (encSlot_fieldCj_eq_wordCJ 0b101 off) rfl
  · exact decodeOfEncode (.cJr rs1) (bne_iff_ne.2 h)
  · exact decodeOfEncode (.cJalr rs1) (bne_iff_ne.2 h)

/-! ### Branches (R190, R191) -/

/-- `branch` on a condition that decides `p`. -/
theorem completes_branch {c : Bool} {p : Prop} [Decidable p] (hc : c = true ↔ p) (off len : Word) (s : State) :
    Completes (branch c off len s) s s.readReg (if p then s.pc + off else s.pc + len) := by
  rw [branch_eq, ← if_congr hc rfl rfl]
  exact completes_jump s _

theorem beq_zero_iff_toNat (a : Word) : (a == 0) = true ↔ a.toNat = 0 := beq_iff_eq.trans BitVec.toNat_eq

theorem bne_zero_iff_toNat (a : Word) : (a != 0) = true ↔ ¬ a.toNat = 0 :=
  bne_iff_ne.trans (not_congr BitVec.toNat_eq)

theorem completes_cBeqz (s : State) (rs1 : CReg) (off : BitVec 8) :
    Completes (exec (.cBeqz rs1 off) s) s s.readReg
      (if (s.readReg (creg rs1)).toNat = 0 then plus s.pc (2 * off.toInt) else s.pc + 2) := by
  rw [← add_signExtend_append_zero]
  exact completes_branch (beq_zero_iff_toNat _) (offCb off) 2 s

theorem completes_cBnez (s : State) (rs1 : CReg) (off : BitVec 8) :
    Completes (exec (.cBnez rs1 off) s) s s.readReg
      (if (s.readReg (creg rs1)).toNat = 0 then s.pc + 2 else plus s.pc (2 * off.toInt)) := by
  rw [← add_signExtend_append_zero, ← ite_not]
  exact completes_branch (bne_zero_iff_toNat _) (offCb off) 2 s

theorem encCbr_eq_iff {f3 : BitVec 3} {imm : BitVec 8} {rs1 : CReg} {w : BitVec 16} :
    encCbr f3 imm rs1 = w ↔ f3 = w.extractLsb' 13 3 ∧ fieldCbHi imm = w.extractLsb' 10 3 ∧ rs1 = w.extractLsb' 7 3
      ∧ fieldCbLo imm = w.extractLsb' 2 5 ∧ 0b01#2 = w.extractLsb' 0 2 := by
  simp (disch := decide) only [encCbr, append_eq_iff, extract_extract, and_assoc]

theorem encCbr_eq_wordCBranch (f3 : BitVec 3) (rs1 : CReg) (imm : BitVec 8) :
    InstWord.half (encCbr f3 imm rs1) = wordCBranch f3 rs1 (imm ++ 0b0#1) := by
  refine congrArg InstWord.half (encCbr_eq_iff.2 ?_)
  simp (disch := decide) only [fieldCbHi, fieldCbLo, append_eq_iff, extract_extract, extract_append_low,
    extract_append_high, Nat.reduceSub, extract_all, and_self]

/-- Settles O49: a branch leaves its target or the next address, as the register is zero or not. -/
theorem compressedBranchResults : Obligations.CompressedBranchResults := fun s rs1 off =>
  ⟨⟨decode_eq_of_encode_eq (encCbr_eq_wordCBranch 0b110 rs1 off) rfl, completes_cBeqz s rs1 off⟩,
    decode_eq_of_encode_eq (encCbr_eq_wordCBranch 0b111 rs1 off) rfl, completes_cBnez s rs1 off⟩

end Sys2Proof.Proofs
end

section
/-! PROOFS. The rest of Quadrant 2 (43_c_quadrant2.md): reserved words, and the instructions that raise with no info
(48_system.md). -/
namespace Sys2Proof.Proofs
open Sys2Proof.Machine Sys2Proof.Claims

/-! ### Reserved words (R202, R204, R206, R216) -/

/-- The reserved C.LWSP words, the two parts of the offset in `inst[6:2]` written apart (R204). -/
theorem encode_resCLwsp (off : BitVec 6) :
    encode (.resCLwsp off) = .half (0b010#3 ++ off.extractLsb' 3 1 ++ 0b00000#5 ++ off.extractLsb' 0 3
      ++ off.extractLsb' 4 2 ++ 0b10#2) := by
  refine congrArg InstWord.half (encCi_eq_iff.2 ?_)
  simp (disch := decide) only [append_eq_iff, extract_extract, extract_append_low, extract_append_high, Nat.reduceSub,
    extract_all, and_self]

/-- Settles O10: the rows are illegal, and the words are those they encode to. -/
theorem quadrant2ReservedWordsTrap : Obligations.Quadrant2ReservedWordsTrap := by
  refine ⟨fun bits => ?_, fun rd => ?_, fun off => ?lwsp, ?_, fun bits => ⟨?_, ?_, ?_, ?_⟩⟩
  case lwsp => exact reservedWord_of_encode_eq (encode_resCLwsp off) rfl rfl
  all_goals exact reservedWord_of_encode_eq rfl rfl rfl

/-! ### Breakpoint and environment call (R209, R300, R301) -/

/-- Raising an exception is the terminal trap at the own `pc` (R314). -/
theorem traps_raise (cause : Cause) (info : Option Word) (s : State) : Traps (raise cause info s) s cause info := rfl

/-- Settles O43: each word is the instruction's (O1), and each instruction raises its exception. -/
theorem breakpointAndEnvironmentCallTrap : Obligations.BreakpointAndEnvironmentCallTrap :=
  ⟨decodeOfEncode .cEbreak rfl, decodeOfEncode .ebreak rfl, decodeOfEncode .ecall rfl, fun s =>
    ⟨traps_raise .breakpoint none s, traps_raise .breakpoint none s, traps_raise .environmentCall none s⟩⟩

end Sys2Proof.Proofs
end

section
/-! PROOFS. The 32-bit arithmetic and logical instructions (44_alu.md): words that are no instruction, the immediate and the
shift amount as numbers, comparisons, and what each instruction leaves. -/
namespace Sys2Proof.Proofs
open Sys2Proof.Machine Sys2Proof.Claims

/-! ### Words that are no instruction (R241, R303) -/

/-- The decoder's answer is a rejection. -/
def Rejected (d : Decoded) : Prop := ∃ e, d = .error e

theorem rejected_error {e : Reject} : Rejected (.error e) := ⟨e, rfl⟩

/-- A register field can only add to the reasons for rejection. -/
theorem rejected_regField {n lo : Nat} {v : BitVec n} {f : Reg → Decoded} (h : ∀ r, Rejected (f r)) :
    Rejected (regField v lo >>= f) := by
  cases regField v lo with
  | error e => exact rejected_error
  | ok r => exact h r

/-- R96, for the words the decoder rejects. -/
theorem traps_of_rejected {s : State} {w : InstWord} (hf : s.fetch = .next w) (h : Rejected (decode w)) :
    Traps (step s) s .illegalInstruction (some w.info) := by
  obtain ⟨e, hd⟩ := h
  exact step_of_decode_error hf hd

theorem rejected_decodeOp {w : BitVec 32} (h7 : w.extractLsb' 25 7 ≠ 0b0000000#7)
    (hno : ¬ (w.extractLsb' 25 7 = 0b0100000#7 ∧ (w.extractLsb' 12 3 = 0b000#3 ∨ w.extractLsb' 12 3 = 0b101#3))) :
    Rejected (decodeOp w) := by
  refine rejected_regField fun rd => rejected_regField fun rs1 => rejected_regField fun rs2 => ?_
  rw [if_neg h7]
  split
  · next h32 =>
    obtain ⟨h0, h5⟩ := not_or.1 fun h3 => hno ⟨h32, h3⟩
    rw [if_neg h0, if_neg h5]
    exact rejected_error
  · exact rejected_error

theorem rejected_decodeOpImm {w : BitVec 32}
    (h : w.extractLsb' 12 3 = 0b001#3 ∧ w.extractLsb' 25 7 ≠ 0b0000000#7
      ∨ w.extractLsb' 12 3 = 0b101#3 ∧ w.extractLsb' 25 7 ≠ 0b0000000#7 ∧ w.extractLsb' 25 7 ≠ 0b0100000#7) :
    Rejected (decodeOpImm w) := by
  refine rejected_regField fun rd => rejected_regField fun rs1 => ?_
  rcases h with ⟨h3, h7⟩ | ⟨h3, h7, h7'⟩
  · simp [h3, h7, rejected_error]
  · simp [h3, h7, h7', rejected_error]

theorem rejected_system {w : BitVec 32} (hop : w.extractLsb' 0 7 = 0b1110011#7) (hecall : w ≠ 0x00000073#32)
    (hebreak : w ≠ 0x00100073#32) : Rejected (decode (.full w)) := by
  simp [decode, decode32, hop, hecall, hebreak, rejected_error]

theorem rejected_miscMem {w : BitVec 32} (hop : w.extractLsb' 0 7 = 0b0001111#7) (h3 : w.extractLsb' 12 3 ≠ 0b000#3) :
    Rejected (decode (.full w)) := by
  simp [decode, decode32, hop, h3, rejected_error]

theorem decode_op {w : BitVec 32} (hop : w.extractLsb' 0 7 = 0b0110011#7) : decode (.full w) = decodeOp w := by
  simp [decode, decode32, hop]

theorem decode_opImm {w : BitVec 32} (hop : w.extractLsb' 0 7 = 0b0010011#7) : decode (.full w) = decodeOpImm w := by
  simp [decode, decode32, hop]

/-- Settles O7: the part of the decoder that has the opcode rejects the word. -/
theorem unlistedFunctionCodesAreIllegal : Obligations.UnlistedFunctionCodesAreIllegal := by
  intro s w hf
  refine ⟨fun hop h7 hno => ?_, fun hop h => ?_, fun hop hecall hebreak => ?_, fun hop h3 => ?_⟩
  all_goals refine traps_of_rejected hf ?_
  · exact decode_op hop ▸ rejected_decodeOp h7 hno
  · exact decode_opImm hop ▸ rejected_decodeOpImm h
  · exact rejected_system hop hecall hebreak
  · exact rejected_miscMem hop h3

/-! ### Sums and differences (R220, R221, R230) -/

theorem completes_add (s : State) (rd rs1 rs2 : Reg) :
    Completes (exec (.add rd rs1 rs2) s) s
      (withReg s rd (BitVec.ofNat 32 ((s.readReg rs1).toNat + (s.readReg rs2).toNat))) (s.pc + 4) :=
  completes_finish_of_eq s rd 4 (add_eq_ofNat _ _)

theorem completes_sub (s : State) (rd rs1 rs2 : Reg) :
    Completes (exec (.sub rd rs1 rs2) s) s
      (withReg s rd (BitVec.ofInt 32 ((s.readReg rs1).toNat - (s.readReg rs2).toNat : Int))) (s.pc + 4) :=
  completes_finish_of_eq s rd 4 (sub_eq_ofInt _ _)

theorem add_immI_eq_plus (a : Word) (imm : BitVec 12) : a + immI imm = plus a imm.toInt := (plus_eq_add a imm.toInt).symm

theorem completes_addi (s : State) (rd rs1 : Reg) (imm : BitVec 12) :
    Completes (exec (.addi rd rs1 imm) s) s (withReg s rd (plus (s.readReg rs1) imm.toInt)) (s.pc + 4) :=
  completes_finish_of_eq s rd 4 (add_immI_eq_plus _ imm)

/-- Settles O29: each word is the instruction's (O1), and each sum or difference is that of the numbers modulo 2^32. -/
theorem addSubtractResults : Obligations.AddSubtractResults := fun rd rs1 rs2 imm s =>
  ⟨⟨decodeOfEncode (.add rd rs1 rs2) rfl, completes_add s rd rs1 rs2⟩,
    ⟨decodeOfEncode (.sub rd rs1 rs2) rfl, completes_sub s rd rs1 rs2⟩,
    decodeOfEncode (.addi rd rs1 imm) rfl, completes_addi s rd rs1 imm⟩

/-! ### Logic (R224 to R226, R233 to R235) -/

/-- Settles O30: each word is the instruction's (O1), and each instruction finishes with the operation of the two words, the
immediate sign-extended. -/
theorem logicalResults : Obligations.LogicalResults := by
  intro rd rs1 rs2 imm s a b
  have hdone (v : Word) : Completes (finish rd v 4 s) s (withReg s rd v) (s.pc + 4) := completes_finish s rd v 4
  exact ⟨⟨decodeOfEncode (.and rd rs1 rs2) rfl, a &&& b, bitwiseOf_and a b, hdone _⟩,
    ⟨decodeOfEncode (.or rd rs1 rs2) rfl, a ||| b, bitwiseOf_or a b, hdone _⟩,
    ⟨decodeOfEncode (.xor rd rs1 rs2) rfl, a ^^^ b, bitwiseOf_xor a b, hdone _⟩,
    ⟨decodeOfEncode (.andi rd rs1 imm) rfl, a &&& sext imm, bitwiseOf_and a _, hdone _⟩,
    ⟨decodeOfEncode (.ori rd rs1 imm) rfl, a ||| sext imm, bitwiseOf_or a _, hdone _⟩,
    decodeOfEncode (.xori rd rs1 imm) rfl, a ^^^ sext imm, bitwiseOf_xor a _, hdone _⟩

/-! ### Shifts (R227 to R229, R236 to R238) -/

/-- The low five bits of a register value as a number (R240.3). -/
theorem toNat_shiftAmount (v : Word) : (shiftAmount v).toNat = v.toNat % 32 := by
  rw [shiftAmount, BitVec.extractLsb'_toNat, Nat.shiftRight_zero]

/-- A shift that is the arithmetic `g`. -/
theorem completes_opShift {f : Word → BitVec 5 → Word} {g : Word → Nat → Word} (hfg : ∀ v k, f v k = g v k.toNat)
    (s : State) (rd rs1 : Reg) (shamt : BitVec 5) :
    Completes (opShift f rd rs1 shamt s) s (withReg s rd (g (s.readReg rs1) shamt.toNat)) (s.pc + 4) :=
  completes_finish_of_eq s rd 4 (hfg _ _)

/-- A shift by a register is the shift by its amount. -/
theorem completes_opShift_shiftAmount {f : Word → BitVec 5 → Word} {g : Word → Nat → Word}
    (hfg : ∀ v k, f v k = g v k.toNat) (s : State) (rd rs1 rs2 : Reg) :
    Completes (opShift f rd rs1 (shiftAmount (s.readReg rs2)) s) s
      (withReg s rd (g (s.readReg rs1) ((s.readReg rs2).toNat % 32))) (s.pc + 4) :=
  toNat_shiftAmount (s.readReg rs2) ▸ completes_opShift hfg s rd rs1 (shiftAmount (s.readReg rs2))

/-- Settles O31: each word is the instruction's (O1), and each shift is the arithmetic of R6. -/
theorem shiftResults : Obligations.ShiftResults := fun rd rs1 rs2 shamt s =>
  ⟨⟨decodeOfEncode (.sll rd rs1 rs2) rfl, completes_opShift_shiftAmount sllW_eq_shiftedLeft s rd rs1 rs2⟩,
    ⟨decodeOfEncode (.srl rd rs1 rs2) rfl, completes_opShift_shiftAmount srlW_eq_shiftedRight s rd rs1 rs2⟩,
    ⟨decodeOfEncode (.sra rd rs1 rs2) rfl, completes_opShift_shiftAmount sraW_eq_shiftedRightSigned s rd rs1 rs2⟩,
    ⟨decodeOfEncode (.slli rd rs1 shamt) rfl, completes_opShift sllW_eq_shiftedLeft s rd rs1 shamt⟩,
    ⟨decodeOfEncode (.srli rd rs1 shamt) rfl, completes_opShift srlW_eq_shiftedRight s rd rs1 shamt⟩,
    decodeOfEncode (.srai rd rs1 shamt) rfl, completes_opShift sraW_eq_shiftedRightSigned s rd rs1 shamt⟩

/-! ### Comparisons (R222, R223, R231, R232) -/

theorem bool32_decide (p : Prop) [Decidable p] : bool32 (decide p) = oneIf p := if_congr decide_eq_true_iff rfl rfl

/-- Sign extension keeps the signed value of an immediate (R87). -/
theorem toInt_immI (imm : BitVec 12) : (immI imm).toInt = imm.toInt := BitVec.toInt_signExtend_of_le (by decide)

theorem completes_slt (s : State) (rd rs1 rs2 : Reg) :
    Completes (exec (.slt rd rs1 rs2) s) s
      (withReg s rd (oneIf ((s.readReg rs1).toInt < (s.readReg rs2).toInt))) (s.pc + 4) :=
  completes_finish_of_eq s rd 4 (bool32_decide _)

theorem completes_sltu (s : State) (rd rs1 rs2 : Reg) :
    Completes (exec (.sltu rd rs1 rs2) s) s
      (withReg s rd (oneIf ((s.readReg rs1).toNat < (s.readReg rs2).toNat))) (s.pc + 4) :=
  completes_finish_of_eq s rd 4 (bool32_decide _)

theorem completes_slti (s : State) (rd rs1 : Reg) (imm : BitVec 12) :
    Completes (exec (.slti rd rs1 imm) s) s (withReg s rd (oneIf ((s.readReg rs1).toInt < imm.toInt))) (s.pc + 4) := by
  rw [← toInt_immI]
  exact completes_finish_of_eq s rd 4 (bool32_decide _)

/-- Settles O32: each word is the instruction's (O1), and each result is the comparison of the numbers. -/
theorem setLessThanResults : Obligations.SetLessThanResults := fun rd rs1 rs2 imm s =>
  ⟨⟨decodeOfEncode (.slt rd rs1 rs2) rfl, completes_slt s rd rs1 rs2⟩,
    ⟨decodeOfEncode (.sltu rd rs1 rs2) rfl, completes_sltu s rd rs1 rs2⟩,
    decodeOfEncode (.slti rd rs1 imm) rfl, completes_slti s rd rs1 imm⟩

/-- SLTIU compares with the immediate as its parameter extends it. -/
theorem completes_sltiu (s : State) (rd rs1 : Reg) (imm : BitVec 12) :
    Completes (exec (.sltiu rd rs1 imm) s) s
      (withReg s rd (oneIf ((s.readReg rs1).toNat < (immSltiu s.params.sltiuImmExt imm).toNat))) (s.pc + 4) :=
  completes_finish_of_eq s rd 4 (bool32_decide _)

theorem toNat_immSltiu_zero (imm : BitVec 12) : (immSltiu .zero imm).toNat = imm.toNat :=
  BitVec.toNat_setWidth_of_le (by decide)

/-- Settles O33: the word is SLTIU's (O1), and its comparand is the immediate under each value of the parameter. -/
theorem sltiuFollowsItsOpenParameter : Obligations.SltiuFollowsItsOpenParameter := by
  intro rd rs1 imm s
  have hdone := completes_sltiu s rd rs1 imm
  refine ⟨decodeOfEncode (.sltiu rd rs1 imm) rfl, fun hzero => ?_, fun hsign => ?_⟩
  · rwa [hzero, toNat_immSltiu_zero] at hdone
  · rwa [hsign] at hdone

end Sys2Proof.Proofs
end

section
/-! PROOFS. The 32-bit loads and stores (45_load_store.md): the address as a sum, the zero-extended value of an access, the
low bytes of a register, and what each instruction leaves. -/
namespace Sys2Proof.Proofs
open Sys2Proof.Machine Sys2Proof.Claims

theorem effAddr_eq_plus (s : State) (rs1 : Reg) (imm : BitVec 12) :
    effAddr s rs1 imm = plus (s.readReg rs1) imm.toInt := add_immI_eq_plus (s.readReg rs1) imm

/-! ### Loads (R250 to R254) -/

/-- The bytes of an access fit its width, so zero extension leaves their number. -/
theorem zeroExtend_ofNat_bytesValue (s : State) (n : Width) (a : Word) :
    (BitVec.ofNat (8 * n.bytes) (bytesValue s a n.bytes)).zeroExtend 32 = BitVec.ofNat 32 (bytesValue s a n.bytes) := by
  rw [← readValue_eq_bytesValue, BitVec.zeroExtend_eq_setWidth, ← BitVec.ofNat_toNat, toNat_readValue]

/-- A load that zero-extends leaves the bytes as a number. -/
theorem loadOutcome_zeroExtend (n : Width) (rd : Reg) (a len : Word) (s : State) :
    LoadOutcome (load n (fun v => v.zeroExtend 32) rd a len s) s n.bytes a rd (BitVec.ofNat 32 (bytesValue s a n.bytes))
      len :=
  zeroExtend_ofNat_bytesValue s n a ▸ loadOutcome_load n (fun v => v.zeroExtend 32) rd a len s

/-- A load that sign-extends leaves the bytes as a number in two's complement. -/
theorem loadOutcome_signExtend (n : Width) (rd : Reg) (a len : Word) (s : State) :
    LoadOutcome (load n (fun v => v.signExtend 32) rd a len s) s n.bytes a rd
      (sext (BitVec.ofNat (8 * n.bytes) (bytesValue s a n.bytes))) len :=
  loadOutcome_load n (fun v => v.signExtend 32) rd a len s

/-- Settles O36: each word is the instruction's (O1), and each instruction is a load of its width and extension. -/
theorem loadResults : Obligations.LoadResults := fun rd rs1 imm s =>
  ⟨effAddr_eq_plus s rs1 imm,
    ⟨decodeOfEncode (.lw rd rs1 imm) rfl, loadOutcome_word rd _ 4 s⟩,
    ⟨decodeOfEncode (.lh rd rs1 imm) rfl, loadOutcome_signExtend .half rd _ 4 s⟩,
    ⟨decodeOfEncode (.lhu rd rs1 imm) rfl, loadOutcome_zeroExtend .half rd _ 4 s⟩,
    ⟨decodeOfEncode (.lb rd rs1 imm) rfl, loadOutcome_signExtend .byte rd _ 4 s⟩,
    decodeOfEncode (.lbu rd rs1 imm) rfl, loadOutcome_zeroExtend .byte rd _ 4 s⟩

/-! ### Stores (R255 to R257) -/

/-- A byte inside the low `l` bits of `x` is the byte of `x`. -/
theorem byte_extractLsb'_zero {l k : Nat} (x : Word) (h : 8 * k + 8 ≤ l) :
    BitVec.ofNat 8 ((x.extractLsb' 0 l).toNat / 256 ^ k) = BitVec.ofNat 8 (x.toNat / 256 ^ k) := by
  rw [← extractLsb'_byte, ← extractLsb'_byte, extract_extract x h, Nat.zero_add]

/-- A store of the low bits of `x` writes the low bytes of `x`. -/
theorem storeOutcome_low (n : Width) (a x len : Word) (s : State) :
    StoreOutcome (store n a (x.extractLsb' 0 (8 * n.bytes)) len s) s n.bytes a x len :=
  storeOutcome_store a len s fun _ hk => byte_extractLsb'_zero x (by omega)

/-- Settles O37: each word is the instruction's (O1), and each instruction is a store of the low bytes of `x[rs2]`. -/
theorem storeResults : Obligations.StoreResults := fun rs2 rs1 imm s =>
  ⟨effAddr_eq_plus s rs1 imm,
    ⟨decodeOfEncode (.sw rs2 rs1 imm) rfl, storeOutcome_word _ _ 4 s⟩,
    ⟨decodeOfEncode (.sh rs2 rs1 imm) rfl, storeOutcome_low .half _ _ 4 s⟩,
    decodeOfEncode (.sb rs2 rs1 imm) rfl, storeOutcome_low .byte _ _ 4 s⟩

end Sys2Proof.Proofs
end

section
/-! PROOFS. The upper-immediate instructions (46_upper_immediate.md): the field in front of twelve zero bits as a number, how
it adds, and what each instruction and the pair with ADDI leave. -/
namespace Sys2Proof.Proofs
open Sys2Proof.Machine Sys2Proof.Claims

/-! ### The upper immediate as a number (R87) -/

theorem toNat_append_twelve {k : Nat} (hi : BitVec k) (lo : BitVec 12) : (hi ++ lo).toNat = hi.toNat * 4096 + lo.toNat := by
  rw [BitVec.toNat_append, ← Nat.shiftLeft_add_eq_or_of_lt lo.isLt, Nat.shiftLeft_eq]

theorem toNat_immU (imm : BitVec 20) : (immU imm).toNat = imm.toNat * 4096 := by
  rw [immU, toNat_append_twelve, BitVec.toNat_zero, Nat.add_zero]

theorem immU_eq_ofNat (imm : BitVec 20) : immU imm = BitVec.ofNat 32 (imm.toNat * 4096) := by
  rw [← toNat_immU, BitVec.ofNat_toNat, BitVec.setWidth_eq]

/-! ### LUI and AUIPC (R270, R271) -/

theorem completes_lui (s : State) (rd : Reg) (imm : BitVec 20) :
    Completes (exec (.lui rd imm) s) s (withReg s rd (BitVec.ofNat 32 (imm.toNat * 4096))) (s.pc + 4) :=
  completes_finish_of_eq s rd 4 (immU_eq_ofNat imm)

theorem completes_auipc (s : State) (rd : Reg) (imm : BitVec 20) :
    Completes (exec (.auipc rd imm) s) s (withReg s rd (BitVec.ofNat 32 (s.pc.toNat + imm.toNat * 4096))) (s.pc + 4) := by
  refine completes_finish_of_eq s rd 4 ?_
  rw [add_eq_ofNat, toNat_immU]

/-- Settles O34: each word is the instruction's (O1), and the field in front of twelve zero bits is the field times 4096. -/
theorem upperImmediateResults : Obligations.UpperImmediateResults := fun rd imm s =>
  ⟨⟨decodeOfEncode (.lui rd imm) rfl, completes_lui s rd imm⟩,
    decodeOfEncode (.auipc rd imm) rfl, completes_auipc s rd imm⟩

/-! ### LUI and then ADDI (R272) -/

theorem immU_add (a b : BitVec 20) : immU (a + b) = immU a + immU b := by
  apply BitVec.eq_of_toNat_eq
  rw [toNat_immU, BitVec.toNat_add, BitVec.toNat_add, toNat_immU, toNat_immU]
  omega

/-- One more in the upper field makes up for what sign extension takes from a low field with its top bit set. -/
theorem immU_msb_add_immI (lo : BitVec 12) : immU (if lo.msb then 1 else 0) + immI lo = lo.zeroExtend 32 := by
  apply BitVec.eq_of_toNat_eq
  have hlt : lo.toNat < 4096 := lo.isLt
  rw [BitVec.toNat_add, toNat_immU, immI, BitVec.toNat_signExtend, BitVec.zeroExtend_eq_setWidth, BitVec.toNat_setWidth]
  cases lo.msb with
  | false =>
    change (0 * 4096 + (lo.toNat % 2 ^ 32 + 0)) % 2 ^ 32 = lo.toNat % 2 ^ 32
    omega
  | true =>
    change (1 * 4096 + (lo.toNat % 2 ^ 32 + (2 ^ 32 - 2 ^ 12))) % 2 ^ 32 = lo.toNat % 2 ^ 32
    omega

theorem immU_add_zeroExtend (hi : BitVec 20) (lo : BitVec 12) : immU hi + lo.zeroExtend 32 = hi ++ lo := by
  apply BitVec.eq_of_toNat_eq
  have hlo : lo.toNat < 4096 := lo.isLt
  have hhi : hi.toNat < 1048576 := hi.isLt
  rw [BitVec.toNat_add, toNat_immU, BitVec.zeroExtend_eq_setWidth, BitVec.toNat_setWidth, toNat_append_twelve]
  omega

/-- The upper field of `K`, one higher when bit 11 is set, and the sign-extended low field add to `K`. -/
theorem immU_add_immI_eq (K : Word) :
    immU (K.extractLsb' 12 20 + if K.getLsbD 11 then 1 else 0) + immI (K.extractLsb' 0 12) = K := by
  have hmsb : K.getLsbD 11 = (K.extractLsb' 0 12).msb := by
    rw [BitVec.msb_eq_getLsbD_last, BitVec.getLsbD_extractLsb']
    rfl
  calc immU (K.extractLsb' 12 20 + if K.getLsbD 11 then 1 else 0) + immI (K.extractLsb' 0 12)
      = immU (K.extractLsb' 12 20) + (K.extractLsb' 0 12).zeroExtend 32 := by
        rw [immU_add, BitVec.add_assoc, hmsb, immU_msb_add_immI]
    _ = K.extractLsb' 12 20 ++ K.extractLsb' 0 12 := immU_add_zeroExtend _ _
    _ = K := (BitVec.extractLsb'_append_extractLsb'_eq_extractLsb' rfl).trans BitVec.extractLsb'_eq_self

theorem withReg_same (s : State) {rd : Reg} (v : Word) (h : rd ≠ 0) : withReg s rd v rd = v := if_pos ⟨rfl, h⟩

/-- Settles O35: what LUI leaves in the register (O34) and what ADDI adds to it (O29) add to the constant. -/
theorem luiThenAddiBuildsAnyConstant : Obligations.LuiThenAddiBuildsAnyConstant := by
  intro K rd s hrd
  obtain ⟨t, hlui, -, htreg, -⟩ := completes_lui s rd (K.extractLsb' 12 20 + if K.getLsbD 11 then 1 else 0)
  obtain ⟨u, haddi, -, hureg, -⟩ := completes_addi t rd rd (K.extractLsb' 0 12)
  refine ⟨t, u, hlui, haddi, ?_⟩
  rw [hureg, withReg_same t _ hrd, htreg, withReg_same s _ hrd, ← immU_eq_ofNat, ← add_immI_eq_plus, immU_add_immI_eq]

end Sys2Proof.Proofs
end

section
/-! PROOFS. The 32-bit jumps and branches (47_control_flow.md): the words whose offset is scattered, the words of JALR's
opcode that are no instruction, the conditions as comparisons of numbers, and what each instruction leaves. -/
namespace Sys2Proof.Proofs
open Sys2Proof.Machine Sys2Proof.Claims

/-! ### JAL and JALR (R280, R281) -/

/-- Format J is format U with the bits of the offset moved; the offset's bit 0 has no place in it (R86). -/
theorem encU_fieldJ_eq_wordJ (off : BitVec 20) (rd : Reg) (op : BitVec 7) :
    InstWord.full (encU (fieldJ off) rd op) = wordJ (off ++ 0b0#1) rd op := by
  refine congrArg InstWord.full ?_
  simp (disch := decide) only [extract_append_high, Nat.reduceSub]
  rfl

theorem completes_jal (s : State) (rd : Reg) (off : BitVec 20) :
    Completes (exec (.jal rd off) s) s (withReg s rd (s.pc + 4)) (plus s.pc (2 * off.toInt)) := by
  rw [← add_signExtend_append_zero]
  exact completes_jumpLink s rd (s.pc + 4) (s.pc + offJ off)

/-- The target is that of the state before the link is written, so `rd` may be `rs1` (R281). -/
theorem completes_jalr (s : State) (rd rs1 : Reg) (imm : BitVec 12) :
    Completes (exec (.jalr rd rs1 imm) s) s (withReg s rd (s.pc + 4))
      (BitVec.ofNat 32 ((plus (s.readReg rs1) imm.toInt).toNat / 2 * 2)) := by
  rw [← evenTarget_eq_div_mul, ← add_immI_eq_plus]
  exact completes_jumpLink s rd (s.pc + 4) (evenTarget (s.readReg rs1 + immI imm))

theorem decode_jalrOpcode {w : BitVec 32} (hop : w.extractLsb' 0 7 = 0b1100111#7) :
    decode (.full w) = decodeJalr w := by
  simp [decode, decode32, hop]

/-- funct3 must be `000` (R102). -/
theorem rejected_decodeJalr {w : BitVec 32} (h3 : w.extractLsb' 12 3 ≠ 0b000#3) : Rejected (decodeJalr w) := by
  refine rejected_regField fun rd => rejected_regField fun rs1 => ?_
  rw [if_neg h3]
  exact rejected_error

theorem rejected_wordI_jalr (imm : BitVec 12) (rs1 rd : Reg) {f3 : BitVec 3} (h3 : f3 ≠ 0b000#3) :
    Rejected (decode (wordI imm rs1 f3 rd 0b1100111)) := by
  have hf3 : (encI imm rs1 f3 rd 0b1100111#7).extractLsb' 12 3 ≠ 0b000#3 := by
    rwa [encI_f3]
  have hdec : decode (wordI imm rs1 f3 rd 0b1100111) = decodeJalr (encI imm rs1 f3 rd 0b1100111#7) :=
    decode_jalrOpcode (encI_op imm rs1 f3 rd _)
  rw [hdec]
  exact rejected_decodeJalr hf3

/-- Settles O41: each word is the instruction's (O1), each jump writes its link and leaves its target, and the decoder
rejects JALR's opcode with another funct3. -/
theorem jumpAndLinkResults : Obligations.JumpAndLinkResults := by
  intro rd rs1 off imm s
  refine ⟨⟨?_, completes_jal s rd off⟩, ⟨?_, completes_jalr s rd rs1 imm⟩, fun f3 w h3 hw hf => ?_⟩
  · exact decode_eq_of_encode_eq (encU_fieldJ_eq_wordJ off rd 0b1101111) rfl
  · exact decodeOfEncode (.jalr rd rs1 imm) rfl
  · exact traps_of_rejected hf (hw ▸ rejected_wordI_jalr imm rs1 rd h3)

/-! ### Branches (R282 to R287) -/

theorem encB_eq_wordB (off : BitVec 12) (rs2 rs1 : Reg) (f3 : BitVec 3) (op : BitVec 7) :
    InstWord.full (encB off rs2 rs1 f3 op) = wordB (off ++ 0b0#1) rs2 rs1 f3 op := by
  refine congrArg InstWord.full ?_
  simp (disch := decide) only [extract_append_high, Nat.reduceSub]
  rfl

/-- A branch whose comparison of the two registers decides `p`. -/
theorem completes_branchRR {c : Word → Word → Bool} {p : Prop} [Decidable p] {s : State} {rs1 rs2 : Reg}
    (hc : c (s.readReg rs1) (s.readReg rs2) = true ↔ p) (off : BitVec 12) :
    Completes (branchRR c rs1 rs2 off s) s s.readReg (if p then plus s.pc (2 * off.toInt) else s.pc + 4) := by
  rw [← add_signExtend_append_zero]
  exact completes_branch hc (offB off) 4 s

theorem beq_iff_toNat (a b : Word) : (a == b) = true ↔ a.toNat = b.toNat := beq_iff_eq.trans BitVec.toNat_eq

theorem bne_iff_toNat (a b : Word) : (a != b) = true ↔ a.toNat ≠ b.toNat := bne_iff_ne.trans (not_congr BitVec.toNat_eq)

theorem ltS_iff (a b : Word) : ltS a b = true ↔ a.toInt < b.toInt := decide_eq_true_iff

theorem ltU_iff (a b : Word) : ltU a b = true ↔ a.toNat < b.toNat := decide_eq_true_iff

theorem not_ltS_iff (a b : Word) : (!ltS a b) = true ↔ b.toInt ≤ a.toInt := by
  rw [Bool.not_eq_true', ← Bool.not_eq_true, ltS_iff, not_lt]

theorem not_ltU_iff (a b : Word) : (!ltU a b) = true ↔ b.toNat ≤ a.toNat := by
  rw [Bool.not_eq_true', ← Bool.not_eq_true, ltU_iff, not_lt]

/-- Settles O42: each word is the instruction's (O1), and each condition is the comparison of the numbers. -/
theorem branchResults : Obligations.BranchResults := by
  intro rs1 rs2 off s a b goes
  exact ⟨⟨decode_eq_of_encode_eq (encB_eq_wordB off rs2 rs1 0b000 _) rfl, completes_branchRR (beq_iff_toNat a b) off⟩,
    ⟨decode_eq_of_encode_eq (encB_eq_wordB off rs2 rs1 0b001 _) rfl, completes_branchRR (bne_iff_toNat a b) off⟩,
    ⟨decode_eq_of_encode_eq (encB_eq_wordB off rs2 rs1 0b100 _) rfl, completes_branchRR (ltS_iff a b) off⟩,
    ⟨decode_eq_of_encode_eq (encB_eq_wordB off rs2 rs1 0b101 _) rfl,
      completes_branchRR (c := fun a b => !ltS a b) (not_ltS_iff a b) off⟩,
    ⟨decode_eq_of_encode_eq (encB_eq_wordB off rs2 rs1 0b110 _) rfl, completes_branchRR (ltU_iff a b) off⟩,
    decode_eq_of_encode_eq (encB_eq_wordB off rs2 rs1 0b111 _) rfl,
      completes_branchRR (c := fun a b => !ltU a b) (not_ltU_iff a b) off⟩

end Sys2Proof.Proofs
end

section
/-! PROOFS. FENCE (48_system.md) and the stops of a step (60_exceptions.md): each outcome of a fetch, of a rejected word and
of an instruction held against the exception and the refusal listed for it. -/
namespace Sys2Proof.Proofs
open Sys2Proof.Machine Sys2Proof.Claims

/-! ### FENCE (R302) -/

/-- Settles O44: the word is that of the row (O1), whose meaning is to skip. -/
theorem fenceOnlyAdvances : Obligations.FenceOnlyAdvances := fun hi lo s =>
  ⟨decodeOfEncode (.fence hi lo) rfl, completes_skip s 4⟩

/-! ### An outcome and the stop it is (R8, R314) -/

/-- The outcome, from `s`, is the exception listed, or the refusal listed, or a next state where neither is. -/
inductive StopsAs (s : State) : Option (Cause × Option Word) → Option Refusal → Result → Prop
  | next (t : State) : StopsAs s none none (.next t)
  | trap (cause : Cause) (info : Option Word) : StopsAs s (some (cause, info)) none (raise cause info s)
  | refuse (r : Refusal) : StopsAs s none (some r) (.refused r)

theorem StopsAs.fault_iff {s : State} {trap : Option (Cause × Option Word)} {refusal : Option Refusal} {r : Result}
    (h : StopsAs s trap refusal r) (f : Fault) :
    r = .fault f ↔ ∃ cause info, trap = some (cause, info) ∧ f = .trapped cause s.pc info := by
  cases h with
  | next t => exact ⟨nofun, nofun⟩
  | trap cause info =>
    exact ⟨fun e => by cases e; exact ⟨cause, info, rfl, rfl⟩, fun ⟨_, _, e, hf⟩ => by cases e; rw [hf]; rfl⟩
  | refuse r => exact ⟨nofun, nofun⟩

theorem StopsAs.refused_iff {s : State} {trap : Option (Cause × Option Word)} {refusal : Option Refusal} {r : Result}
    (h : StopsAs s trap refusal r) (x : Refusal) : r = .refused x ↔ refusal = some x := by
  cases h with
  | next t => exact ⟨nofun, nofun⟩
  | trap cause info => exact ⟨nofun, nofun⟩
  | refuse r => exact ⟨fun e => by cases e; rfl, fun e => by cases e; rfl⟩

/-- A load stops by the exceptions of `MemRead` alone (R44). -/
theorem stopsAs_load (n : Width) (ext : n.Value → Word) (rd : Reg) (a len : Word) (s : State) :
    StopsAs s (if a.toNat % n.bytes ≠ 0 then some (.loadAddressMisaligned, some a)
      else if AllValid s n.bytes a then none else some (.loadAccessFault, some a)) none (load n ext rd a len s) := by
  rw [load]
  split
  · next ha => rw [memRead_of_misaligned ha]; exact .trap _ _
  · next ha =>
    split
    · next hv => rw [memRead_of_valid (not_not.1 ha) hv]; exact .next _
    · next hv => rw [memRead_of_invalid (not_not.1 ha) hv]; exact .trap _ _

/-- A store stops by the exceptions of `MemWrite`, or is refused where it passes them and reaches `CODE_REGION` (R45,
R52). -/
theorem stopsAs_store (n : Width) (a : Word) (v : n.Value) (len : Word) (s : State) :
    StopsAs s (if a.toNat % n.bytes ≠ 0 then some (.storeAddressMisaligned, some a)
        else if AllValid s n.bytes a then none else some (.storeAccessFault, some a))
      (if a.toNat % n.bytes = 0 ∧ AllValid s n.bytes a ∧ ¬ OutsideCode s n.bytes a then some (.codeRegionStore a)
        else none)
      (store n a v len s) := by
  rw [store]
  by_cases ha : a.toNat % n.bytes = 0
  · by_cases hv : AllValid s n.bytes a
    · by_cases hc : OutsideCode s n.bytes a
      · rw [memWrite_of_outsideCode ha hv hc, if_neg (not_not.2 ha), if_pos hv, if_neg fun h => h.2.2 hc]
        exact .next _
      · rw [memWrite_of_inCode ha hv hc, if_neg (not_not.2 ha), if_pos hv, if_pos ⟨ha, hv, hc⟩]
        exact .refuse _
    · rw [memWrite_of_invalid ha hv, if_neg (not_not.2 ha), if_neg hv, if_neg fun h => hv h.2.1]
      exact .trap _ _
  · rw [memWrite_of_misaligned ha, if_pos ha, if_neg fun h => ha h.1]
    exact .trap _ _

/-! ### What each kind of instruction can do (R41, R310) -/

/-- The width of `loadAccess` is one of the three, and `exec` is `load` there. -/
theorem exec_eq_load {s : State} {i : Instr} {k : Nat} {a : Word} (h : loadAccess s i = some (k, a)) :
    ∃ (n : Width) (ext : n.Value → Word) (rd : Reg) (len : Word), n.bytes = k ∧ exec i s = load n ext rd a len s := by
  cases i
  case cLw | cLwsp | lw => cases h; exact ⟨.word, _, _, _, rfl, rfl⟩
  case lh | lhu => cases h; exact ⟨.half, _, _, _, rfl, rfl⟩
  case lb | lbu => cases h; exact ⟨.byte, _, _, _, rfl, rfl⟩
  all_goals cases h

theorem loadAccess_of_storeAccess {s : State} {i : Instr} {access : Nat × Word} (h : storeAccess s i = some access) :
    loadAccess s i = none := by
  cases i
  case cSw | cSwsp | sw | sh | sb => rfl
  all_goals cases h

/-- No illegal or reserved row is a store. -/
theorem storeAccess_of_kind_illegal {s : State} {i : Instr} (h : i.kind = .illegal) : storeAccess s i = none := by
  cases i
  case cSw | cSwsp | sw | sh | sb => cases h
  all_goals rfl

/-- An instruction that raises nothing by itself and makes no access completes. -/
theorem exec_completes {s : State} {i : Instr} (hkind : i.kind ≠ .illegal) (hbreak : ¬ (i = .ebreak ∨ i = .cEbreak))
    (hcall : i ≠ .ecall) (hload : loadAccess s i = none) (hstore : storeAccess s i = none) : ∃ t, exec i s = .next t := by
  cases i
  case cIllegal | resCAddi4spn | niCFld | niCFlw | resQ0F4 | niCFsd | unQ0F7 | resCAddi16sp | resCLui | resCSrli | nseCSrli
    | resCSrai | nseCSrai | resQ1 | nseCSlli | resCSlli | niCFldsp | resCLwsp | niCFlwsp | resCJr | niCFsdsp | niCFswsp =>
    exact absurd rfl hkind
  case ebreak => exact absurd (.inl rfl) hbreak
  case cEbreak => exact absurd (.inr rfl) hbreak
  case ecall => exact absurd rfl hcall
  case cLw | cLwsp | lw | lh | lhu | lb | lbu => cases hload
  case cSw | cSwsp | sw | sh | sb => cases hstore
  case cBeqz | cBnez | beq | bne | blt | bge | bltu | bgeu => exact ⟨_, branch_eq _ _ _ s⟩
  all_goals exact ⟨_, rfl⟩

/-! ### The listed stops of a fetched word (R315) -/

theorem trapOfStep_of_fetch {s : State} {w : InstWord} (hf : s.fetch = .next w) : trapOfStep s = trapOfWord s w := by
  simp only [trapOfStep, hf]

theorem refusalOfStep_of_storeAccess {s : State} {w : InstWord} {i : Instr} {n : Nat} {a : Word} (hf : s.fetch = .next w)
    (hd : decode w = .ok i) (hi : storeAccess s i = some (n, a)) :
    refusalOfStep s =
      if a.toNat % n = 0 ∧ AllValid s n a ∧ ¬ OutsideCode s n a then some (.codeRegionStore a) else none := by
  simp only [refusalOfStep, hf, hd, hi]

theorem refusalOfStep_of_storeAccess_eq_none {s : State} {w : InstWord} {i : Instr} (hf : s.fetch = .next w)
    (hd : decode w = .ok i) (hi : storeAccess s i = none) : refusalOfStep s = none := by
  simp only [refusalOfStep, hf, hd, hi]

/-- An instruction stops as listed for its word, by the order of the list: an illegal row, the breakpoints and the
environment call, a load, a store, and what completes. -/
theorem stopsAs_exec {s : State} {w : InstWord} {i : Instr} (hf : s.fetch = .next w) (hd : decode w = .ok i) :
    StopsAs s (trapOfStep s) (refusalOfStep s) (exec i s) := by
  have hnone := refusalOfStep_of_storeAccess_eq_none hf hd
  rw [trapOfStep_of_fetch hf]
  simp only [trapOfWord, hd]
  split
  · next hkind =>
    rw [hnone (storeAccess_of_kind_illegal hkind), exec_of_kind_illegal hkind, (encodeOfDecode w i hd).1]
    exact .trap _ _
  next hkind =>
  split
  · next hbreak =>
    rcases hbreak with rfl | rfl <;> rw [hnone rfl] <;> exact .trap _ _
  next hbreak =>
  split
  · next hcall =>
    subst hcall
    rw [hnone rfl]
    exact .trap _ _
  next hcall =>
  cases hstore : storeAccess s i with
  | some access =>
    obtain ⟨k, a⟩ := access
    obtain ⟨n, v, len, rfl, hexec⟩ := exec_eq_store hstore
    rw [loadAccess_of_storeAccess hstore, refusalOfStep_of_storeAccess hf hd hstore, hexec]
    exact stopsAs_store n a v len s
  | none =>
    rw [hnone hstore]
    cases hload : loadAccess s i with
    | some access =>
      obtain ⟨k, a⟩ := access
      obtain ⟨n, ext, rd, len, rfl, hexec⟩ := exec_eq_load hload
      rw [hexec]
      exact stopsAs_load n ext rd a len s
    | none =>
      obtain ⟨t, ht⟩ := exec_completes hkind hbreak hcall hload hstore
      rw [ht]
      exact .next t

/-- A step stops as listed: in its fetch, by a word the decoder rejects, or in its instruction (R315). -/
theorem stopsAs_step (s : State) : StopsAs s (trapOfStep s) (refusalOfStep s) (step s) := by
  rcases s.fetch_cases with ⟨w, hf⟩ | hf | hf
  · cases hd : decode w with
    | ok i =>
      rw [step_of_decode_ok hf hd]
      exact stopsAs_exec hf hd
    | error e =>
      rw [step_of_decode_error hf hd, trapOfStep_of_fetch hf]
      simp only [trapOfWord, refusalOfStep, hf, hd]
      exact .trap _ _
  · rw [step_of_fetch_fault hf]
    simp only [trapOfStep, refusalOfStep, hf]
    exact .trap _ _
  · rw [step_of_fetch_refused hf]
    simp only [trapOfStep, refusalOfStep, hf]
    exact .refuse _

/-- Settles O14: a step's outcome is the stop listed for it, which says both equivalences. -/
theorem stopsAreExactlyTheListedOnes : Obligations.StopsAreExactlyTheListedOnes := fun s =>
  ⟨(stopsAs_step s).fault_iff, (stopsAs_step s).refused_iff⟩

end Sys2Proof.Proofs
end

section
/-! PROOFS. Launch (70_reset_and_hazards.md): the invariant of a launched machine, and an instruction that the model's loader
has placed where `step` fetches. -/
namespace Sys2Proof.Proofs
open Sys2Proof.Machine Sys2Proof.Claims

/-! ### The invariant of a launch (R352) -/

theorem launch_wf_iff {l : Launch} : l.wf = true ↔
    Memory.wf l.image = true ∧ (l.image.all fun c => spansContain l.memValid c.1) = true
      ∧ (l.codeRegion.all fun sp => (List.range sp.size).all fun i => (Memory.byte? l.image (sp.base + i)).isSome) = true
      ∧ l.resetPc.getLsbD 0 = false ∧ spansContain l.codeRegion l.resetPc.toNat = true := by
  simp only [Launch.wf, Bool.and_eq_true, Bool.not_eq_true', and_assoc]

/-- Settles O20: `pc`, memory and `MEM_VALID` are those of the launch, whose constraints hold the invariant. -/
theorem launchMeetsInvariant : Obligations.LaunchMeetsInvariant := by
  intro l h
  obtain ⟨hwf, hin, -, heven, -⟩ := launch_wf_iff.1 h
  exact ⟨heven, hwf, hin⟩

/-! ### What the loader leaves unchanged (log 17) -/

/-- In `t` nothing but memory, the launch image and `MEM_VALID` differs from `s`. -/
structure SameButMemory (t s : State) : Prop where
  pc : t.pc = s.pc
  regs : t.regs = s.regs
  cim : t.cim = s.cim
  codeRegion : t.params.codeRegion = s.params.codeRegion
  sltiuImmExt : t.params.sltiuImmExt = s.params.sltiuImmExt

theorem SameButMemory.refl (s : State) : SameButMemory s s := ⟨rfl, rfl, rfl, rfl, rfl⟩

theorem SameButMemory.trans {u t s : State} (hut : SameButMemory u t) (hts : SameButMemory t s) : SameButMemory u s where
  pc := hut.pc.trans hts.pc
  regs := hut.regs.trans hts.regs
  cim := hut.cim.trans hts.cim
  codeRegion := hut.codeRegion.trans hts.codeRegion
  sltiuImmExt := hut.sltiuImmExt.trans hts.sltiuImmExt

/-- `withValid` changes `MEM_VALID` alone, to a set with the address and every address it had. -/
theorem withValid_eq (s : State) (a : Word) : ∃ spans, s.withValid a = s.setMemValid spans
    ∧ ∀ x : Word, x = a ∨ s.valid x = true → spansContain spans x.toNat = true := by
  unfold State.withValid
  split
  · next ha => exact ⟨s.params.memValid, rfl, fun x hx => hx.elim (fun e => e ▸ ha) id⟩
  · refine ⟨_, rfl, fun x hx => (Bool.or_eq_true _ _).mpr (hx.imp_left fun e => ?_)⟩
    simp [e, Span.contains]

theorem sameButMemory_withValid (s : State) (a : Word) : SameButMemory (s.withValid a) s := by
  obtain ⟨spans, h, -⟩ := withValid_eq s a
  rw [h]
  exact ⟨rfl, rfl, rfl, rfl, rfl⟩

theorem sameButMemory_withImageByte (s : State) (a : Word) (b : Byte) : SameButMemory (s.withImageByte a b) s :=
  ⟨rfl, rfl, rfl, rfl, rfl⟩

theorem sameButMemory_withBytes (s : State) (a : Word) (bs : List Byte) : SameButMemory (s.withBytes a bs) s := by
  induction bs generalizing s a with
  | nil => exact .refl s
  | cons b bs ih => exact (ih _ _).trans ((sameButMemory_withImageByte _ a b).trans (sameButMemory_withValid s a))

/-! ### The bytes the loader places -/

@[simp] theorem withValid_mem (s : State) (a : Word) : (s.withValid a).mem = s.mem := by
  obtain ⟨spans, h, -⟩ := withValid_eq s a
  rw [h, State.setMemValid_mem]

@[simp] theorem withValid_image (s : State) (a : Word) : (s.withValid a).params.image = s.params.image := by
  obtain ⟨spans, h, -⟩ := withValid_eq s a
  rw [h, State.setMemValid_image]

theorem withBytes_mem (s : State) (a : Word) (bs : List Byte) : (s.withBytes a bs).mem = Memory.putBytes s.mem a bs := by
  induction bs generalizing s a with
  | nil => rfl
  | cons b bs ih => simp [State.withBytes, ih, State.withImageByte, Memory.putBytes]

theorem withBytes_image (s : State) (a : Word) (bs : List Byte) :
    (s.withBytes a bs).params.image = Memory.putBytes s.params.image a bs := by
  induction bs generalizing s a with
  | nil => rfl
  | cons b bs ih => simp [State.withBytes, ih, State.withImageByte, Memory.putBytes]

theorem valid_withValid {s : State} {a x : Word} (hx : x = a ∨ s.valid x = true) : (s.withValid a).valid x = true := by
  obtain ⟨spans, h, hspans⟩ := withValid_eq s a
  rw [h]
  exact hspans x hx

theorem valid_withBytes {s : State} {x : Word} (h : s.valid x = true) (a : Word) (bs : List Byte) :
    (s.withBytes a bs).valid x = true := by
  induction bs generalizing s a with
  | nil => exact h
  | cons b bs ih => exact ih (s := (s.withValid a).withImageByte a b) (valid_withValid (.inr h)) (a + 1)

theorem valid_withBytes_of_lt (s : State) (a : Word) {bs : List Byte} {k : Nat} (hk : k < bs.length) :
    (s.withBytes a bs).valid (byteAt a k) = true := by
  induction bs generalizing s a k with
  | nil => cases hk
  | cons b bs ih =>
    cases k with
    | zero =>
      rw [byteAt_zero]
      exact valid_withBytes (s := (s.withValid a).withImageByte a b) (valid_withValid (.inl rfl)) (a + 1) bs
    | succ k =>
      have hnext : byteAt a (k + 1) = byteAt (a + 1) k := by rw [Nat.add_comm, ← byteAt_byteAt]; rfl
      rw [hnext]
      exact ih _ (a + 1) (Nat.lt_of_succ_lt_succ hk)

theorem readByte_withBytes (s : State) (a : Word) {bs : List Byte} (hl : bs.length ≤ 2 ^ 32) {k : Nat}
    (hk : k < bs.length) : (s.withBytes a bs).readByte (byteAt a k) = bs[k] := by
  rw [State.readByte, withBytes_mem, byteAt, Memory.byte?_putBytes_of_lt hl hk, Option.getD_some]

theorem launched_withBytes (s : State) (a : Word) {bs : List Byte} (hl : bs.length ≤ 2 ^ 32) {k : Nat}
    (hk : k < bs.length) : (s.withBytes a bs).launched (byteAt a k) = true := by
  rw [State.launched, withBytes_mem, withBytes_image, byteAt, Memory.byte?_putBytes_of_lt hl hk,
    Memory.byte?_putBytes_of_lt hl hk, beq_self_eq_true]

theorem info_toNat_lt (w : InstWord) : w.info.toNat < 2 ^ (8 * w.length) := by
  cases w with
  | half w => exact (BitVec.toNat_setWidth_of_le (by decide)).trans_lt w.isLt
  | full w => exact w.isLt

/-- The loader's four bytes are those of the zero-extended word (R42). -/
theorem tableBytes_info (w : InstWord) : tableBytes (8 * w.length) w.info.toNat =
    [w.info.extractLsb' 0 8, w.info.extractLsb' 8 8, w.info.extractLsb' 16 8, w.info.extractLsb' 24 8] := by
  rw [tableBytes, Nat.mod_eq_of_lt (info_toNat_lt w), BitVec.ofNat_toNat, BitVec.setWidth_eq]

theorem bytes_isPrefix_tableBytes (w : InstWord) : w.bytes <+: tableBytes (8 * w.length) w.info.toNat := by
  rw [tableBytes_info]
  cases w with
  | half w =>
    have hbyte : ∀ lo, lo + 8 ≤ 16 → w.extractLsb' lo 8 = (w.zeroExtend 32).extractLsb' lo 8 := fun lo hlo =>
      (BitVec.extractLsb'_setWidth_of_le (by omega)).symm
    rw [InstWord.bytes, hbyte 0 (by decide), hbyte 8 (by decide)]
    exact ⟨_, rfl⟩
  | full w => exact ⟨[], rfl⟩

/-- Settles O13: the bytes placed are those of the word, valid and as launched, so the step runs the instruction (O11). -/
theorem placedWordIsRunNext : Obligations.PlacedWordIsRunNext := by
  intro s w i hd t
  obtain ⟨hpc, hregs, hcim, hcode, hsltiu⟩ := sameButMemory_withBytes s s.pc (tableBytes (8 * w.length) w.info.toNat)
  refine ⟨stepRunsTheDecodedInstruction t w i hd fun k hk => ?_, hpc, hregs, hcim, hcode, hsltiu⟩
  have hplaced := bytes_isPrefix_tableBytes w
  have hk' : k < (tableBytes (8 * w.length) w.info.toNat).length := hk.trans_le hplaced.length_le
  have hlen : (tableBytes (8 * w.length) w.info.toNat).length ≤ 2 ^ 32 := (by decide : 4 ≤ 2 ^ 32)
  rw [show t.pc = s.pc from hpc, hplaced.getElem hk]
  exact ⟨valid_withBytes_of_lt s s.pc hk', launched_withBytes s s.pc hlen hk', readByte_withBytes s s.pc hlen hk'⟩

end Sys2Proof.Proofs
end
